-- ==== Sys2Proof/Word.lean ====
section
/-! DEFINITION. The word and byte types of RSACORE-32 (00_scope.md R7, R12; 20_memory.md R60). -/

namespace Sys2Proof

/-- The word width `W` of every operand register, result and cursor (R7). -/
abbrev W : Nat := 32

/-- A register value: an unsigned 32-bit integer (R7, R12, R19). -/
abbrev Word := BitVec 32

/-- One byte of BUF (R60). -/
abbrev Byte := BitVec 8

end Sys2Proof
end

