-- ==== Sys2Proof/Config.lean ====
section
/-! DEFINITION. What is fixed for one RSACORE-32 (00_scope.md R2, R9; 10_state.md R58), and the free values. -/

namespace Sys2Proof

/-- The model argument of the hardware (00_scope.md R9). It is carried by the state, which no step changes in it (log 3). -/
structure Config where
  /-- `BUF_BYTES`, the size of the byte buffer; default 4096 (R9, R35). -/
  bufBytes : Nat := 4096
  deriving DecidableEq, Repr

namespace Config

/-- The values R9 admits for `BUF_BYTES`: "a multiple of 4 with 16 ≤ BUF_BYTES ≤ 65536". -/
abbrev Legal (c : Config) : Prop :=
  c.bufBytes % 4 = 0 ∧ 16 ≤ c.bufBytes ∧ c.bufBytes ≤ 65536

/-- The identification value (R2, R30). -/
def idValue : Word := 0x52534301#32

/-- The aperture's size in bytes (10_state.md R25). -/
def apertureBytes : Nat := 0x20000

/-- FREE VALUE (log 15): which 0x20000-aligned slot the platform gives the aperture (R9: `BASE` is OPEN). -/
opaque baseIndex : Nat

/-- FREE VALUE (logs 1, 2): what BUF byte `a` holds after the hard reset numbered `epoch` until something writes it
(70_reset_and_hazards.md R241: every byte any value, "with no law tying one byte to another or one reset to another"). -/
opaque freeByte : (epoch : Nat) → (a : Nat) → Byte

end Config

end Sys2Proof
end

