-- ==== Sys2Proof/Syntax.lean ====
section
/-! DEFINITION. The nine commands (30_encoding.md R93, R99) and the raw fields of a command word (R90). -/

namespace Sys2Proof

/-- The number of operand registers, `NREG` (00_scope.md R9, 10_state.md R23). -/
abbrev NREG : Nat := 16

/-- The index of an operand register X0 to X15 (10_state.md R23, 30_encoding.md R91). -/
abbrev Reg := Fin 16

/-- One constructor per row of the opcode map (R93); operands in the order of the syntax table (R99). -/
inductive Instr where
  /-- `NOP` -/
  | nop
  /-- `BITLEN Xd, Xs` -/
  | bitlen (rd rs1 : Reg)
  /-- `CLZ Xd, Xs` -/
  | clz (rd rs1 : Reg)
  /-- `MODMUL Xd, Xa, Xb, Xn` -/
  | modmul (rd rs1 rs2 rs3 : Reg)
  /-- `MODRED Xd, Xhi, Xlo, Xn` -/
  | modred (rd rs1 rs2 rs3 : Reg)
  /-- `MODEXP Xd, Xa, Xb, Xn` -/
  | modexp (rd rs1 rs2 rs3 : Reg)
  /-- `MODINV Xd, Xe, Xf` -/
  | modinv (rd rs1 rs2 : Reg)
  /-- `RDBITS Xd, Xw` -/
  | rdbits (rd rs1 : Reg)
  /-- `WRBITS Xv, Xw` -/
  | wrbits (rs1 rs2 : Reg)
  deriving DecidableEq, Repr

/-- A command word cut into the six fields of format C (R90). Any 32-bit word has such fields; `legal`
(WellFormed.lean) says which of them are a command. -/
structure CommandFields where
  /-- bits 31:24, reserved, must be 0 -/
  rsv : BitVec 8
  /-- bits 23:20 -/
  rs3 : BitVec 4
  /-- bits 19:16 -/
  rs2 : BitVec 4
  /-- bits 15:12 -/
  rs1 : BitVec 4
  /-- bits 11:8 -/
  rd  : BitVec 4
  /-- bits 7:0 -/
  opc : BitVec 8
  deriving DecidableEq, Repr

end Sys2Proof
end

