-- ==== Sys2Proof/WellFormed.lean ====
section
/-! DEFINITION. Legality of the fields of a command word (30_encoding.md R93, R95).

An `Instr` needs no check of its own: its register operands are `Fin 16`, so every term of the type is one of the nine
commands with operands the encoding admits. What can be ill-formed is the tuple of raw fields, and R95 is its check. -/

namespace Sys2Proof

/-- Which of RD, RS1, RS2, RS3 a command reads or writes: the "used fields" column of R93. -/
structure UsedFields where
  rd  : Bool
  rs1 : Bool
  rs2 : Bool
  rs3 : Bool
  deriving DecidableEq, Repr

/-- The opcode map (R93): the used fields of an assigned opcode, none for the 247 reserved ones (R97). -/
def usedFields (opc : BitVec 8) : Option UsedFields :=
  if opc = 0x00#8 then some ⟨false, false, false, false⟩
  else if opc = 0x01#8 then some ⟨true, true, false, false⟩
  else if opc = 0x02#8 then some ⟨true, true, false, false⟩
  else if opc = 0x10#8 then some ⟨true, true, true, true⟩
  else if opc = 0x11#8 then some ⟨true, true, true, true⟩
  else if opc = 0x12#8 then some ⟨true, true, true, true⟩
  else if opc = 0x20#8 then some ⟨true, true, true, false⟩
  else if opc = 0x30#8 then some ⟨true, true, false, false⟩
  else if opc = 0x31#8 then some ⟨false, true, true, false⟩
  else none

namespace CommandFields

/-- R90: RSV "reserved, must be 0". -/
def rsvZero (f : CommandFields) : Bool := f.rsv == 0#8

/-- R93, R97: the opcode is one of the nine assigned ones. -/
def opcodeAssigned (f : CommandFields) : Bool := (usedFields f.opc).isSome

/-- R93, R95: "an unused field must be 0". -/
def unusedZero (f : CommandFields) : Bool :=
  match usedFields f.opc with
  | none => true
  | some u =>
    (u.rd || f.rd == 0#4) && (u.rs1 || f.rs1 == 0#4) && (u.rs2 || f.rs2 == 0#4) && (u.rs3 || f.rs3 == 0#4)

/-- R95: the fields are those of a legal command word. -/
def legal (f : CommandFields) : Bool := f.rsvZero && f.opcodeAssigned && f.unusedZero

end CommandFields

end Sys2Proof
end

