-- ==== Sys2Proof/Decode.lean ====
section
/-! DEFINITION. The decoder, total on every 32-bit word (30_encoding.md R90 to R98), the encoder (R94, R99), the opcode
table as data (R94), and the mnemonics (R99). -/

namespace Sys2Proof

/-- Why a word is illegal (R95). Every reason gives the one error ILLEGAL (60_exceptions.md R201); the name is not
architectural (log 19). -/
inductive DecodeError where
  /-- RSV (bits 31:24) is not 0 -/
  | reservedBits
  /-- an OPC value R93 does not assign (R97) -/
  | reservedOpcode
  /-- a field the command does not use is not 0 -/
  | unusedField
  deriving DecidableEq, Repr

/-- What the decoder answers: one command, or a rejection by name (R96: "every one of the 2^32 words is exactly one of the
nine commands, or illegal"). -/
inductive Decoded where
  | command (i : Instr)
  | illegal (why : DecodeError)
  deriving DecidableEq, Repr

/-- The instruction of a legal word. -/
def Decoded.instr? : Decoded → Option Instr
  | .command i => some i
  | .illegal _ => none

namespace CommandFields

/-- Field extraction (R91). -/
def ofWord (cw : Word) : CommandFields where
  rsv := cw.extractLsb' 24 8
  rs3 := cw.extractLsb' 20 4
  rs2 := cw.extractLsb' 16 4
  rs1 := cw.extractLsb' 12 4
  rd  := cw.extractLsb' 8 4
  opc := cw.extractLsb' 0 8

/-- The word with these fields (R90). -/
def toWord (f : CommandFields) : Word := f.rsv ++ f.rs3 ++ f.rs2 ++ f.rs1 ++ f.rd ++ f.opc

end CommandFields

/-- A 4-bit register field selects one of X0 to X15 (R91). -/
def regOfField (b : BitVec 4) : Reg := b.toFin

/-- The field that selects a register (R91). -/
def fieldOfReg (r : Reg) : BitVec 4 := BitVec.ofFin r

/-- `i` if the unused fields are 0, illegal otherwise (R95). -/
def ifUnusedZero (fields : List (BitVec 4)) (i : Instr) : Decoded :=
  if fields.all (· == 0#4) then .command i else .illegal .unusedField

/-- The decoder on fields (R93 to R95, binding of R99). -/
def decodeFields (f : CommandFields) : Decoded :=
  if f.rsv ≠ 0#8 then .illegal .reservedBits
  else if f.opc = 0x00#8 then ifUnusedZero [f.rd, f.rs1, f.rs2, f.rs3] .nop
  else if f.opc = 0x01#8 then ifUnusedZero [f.rs2, f.rs3] (.bitlen (regOfField f.rd) (regOfField f.rs1))
  else if f.opc = 0x02#8 then ifUnusedZero [f.rs2, f.rs3] (.clz (regOfField f.rd) (regOfField f.rs1))
  else if f.opc = 0x10#8 then
    .command (.modmul (regOfField f.rd) (regOfField f.rs1) (regOfField f.rs2) (regOfField f.rs3))
  else if f.opc = 0x11#8 then
    .command (.modred (regOfField f.rd) (regOfField f.rs1) (regOfField f.rs2) (regOfField f.rs3))
  else if f.opc = 0x12#8 then
    .command (.modexp (regOfField f.rd) (regOfField f.rs1) (regOfField f.rs2) (regOfField f.rs3))
  else if f.opc = 0x20#8 then
    ifUnusedZero [f.rs3] (.modinv (regOfField f.rd) (regOfField f.rs1) (regOfField f.rs2))
  else if f.opc = 0x30#8 then ifUnusedZero [f.rs2, f.rs3] (.rdbits (regOfField f.rd) (regOfField f.rs1))
  else if f.opc = 0x31#8 then ifUnusedZero [f.rd, f.rs3] (.wrbits (regOfField f.rs1) (regOfField f.rs2))
  else .illegal .reservedOpcode

/-- The decoder on a command word (R95, R96). -/
def decode (cw : Word) : Decoded := decodeFields (.ofWord cw)

/-- The fields of a command: unused ones are 0 (R94, R99). -/
def encodeFields : Instr → CommandFields
  | .nop => ⟨0#8, 0#4, 0#4, 0#4, 0#4, 0x00#8⟩
  | .bitlen rd rs1 => ⟨0#8, 0#4, 0#4, fieldOfReg rs1, fieldOfReg rd, 0x01#8⟩
  | .clz rd rs1 => ⟨0#8, 0#4, 0#4, fieldOfReg rs1, fieldOfReg rd, 0x02#8⟩
  | .modmul rd rs1 rs2 rs3 => ⟨0#8, fieldOfReg rs3, fieldOfReg rs2, fieldOfReg rs1, fieldOfReg rd, 0x10#8⟩
  | .modred rd rs1 rs2 rs3 => ⟨0#8, fieldOfReg rs3, fieldOfReg rs2, fieldOfReg rs1, fieldOfReg rd, 0x11#8⟩
  | .modexp rd rs1 rs2 rs3 => ⟨0#8, fieldOfReg rs3, fieldOfReg rs2, fieldOfReg rs1, fieldOfReg rd, 0x12#8⟩
  | .modinv rd rs1 rs2 => ⟨0#8, 0#4, fieldOfReg rs2, fieldOfReg rs1, fieldOfReg rd, 0x20#8⟩
  | .rdbits rd rs1 => ⟨0#8, 0#4, 0#4, fieldOfReg rs1, fieldOfReg rd, 0x30#8⟩
  | .wrbits rs1 rs2 => ⟨0#8, 0#4, fieldOfReg rs2, fieldOfReg rs1, 0#4, 0x31#8⟩

/-- The word of a command (R94, R98). -/
def encode (i : Instr) : Word := (encodeFields i).toWord

/-- The mnemonic of a command (R93, R99). -/
def Instr.mnemonic : Instr → String
  | .nop => "NOP"
  | .bitlen _ _ => "BITLEN"
  | .clz _ _ => "CLZ"
  | .modmul _ _ _ _ => "MODMUL"
  | .modred _ _ _ _ => "MODRED"
  | .modexp _ _ _ _ => "MODEXP"
  | .modinv _ _ _ => "MODINV"
  | .rdbits _ _ => "RDBITS"
  | .wrbits _ _ => "WRBITS"

/-- One row of the match and mask table (R94). -/
structure OpcodeRow where
  mnemonic : String
  pattern : Word
  mask : Word
  deriving DecidableEq, Repr

/-- R94: "A word `cw` encodes a command when `cw AND mask = match`." -/
abbrev OpcodeRow.Matches (r : OpcodeRow) (cw : Word) : Prop := cw &&& r.mask = r.pattern

/-- The table of R94, row by row. -/
def opcodeTable : List OpcodeRow := [
  ⟨"NOP",    0x00000000#32, 0xFFFFFFFF#32⟩,
  ⟨"BITLEN", 0x00000001#32, 0xFFFF00FF#32⟩,
  ⟨"CLZ",    0x00000002#32, 0xFFFF00FF#32⟩,
  ⟨"MODMUL", 0x00000010#32, 0xFF0000FF#32⟩,
  ⟨"MODRED", 0x00000011#32, 0xFF0000FF#32⟩,
  ⟨"MODEXP", 0x00000012#32, 0xFF0000FF#32⟩,
  ⟨"MODINV", 0x00000020#32, 0xFFF000FF#32⟩,
  ⟨"RDBITS", 0x00000030#32, 0xFFFF00FF#32⟩,
  ⟨"WRBITS", 0x00000031#32, 0xFFF00FFF#32⟩]

/-- The command word whose low `nbits` bits are those of `w` and whose other bits are 0. -/
def tableWord (nbits w : Nat) : Word := BitVec.ofNat 32 (w % 2 ^ nbits)

/-- The instruction the decoder reads from the bits `w`, numbered as spec/opcode_table.json numbers them. A command is one
32-bit word handed over whole by a 4-byte CMD write (R98), so bit `n` of `w` is bit `n` of the word. -/
def decodeTableWord (nbits w : Nat) : Option Instr := (decode (tableWord nbits w)).instr?

end Sys2Proof
end

