-- ==== Sys2Proof/Machine/State.lean ====
section
/-! DEFINITION. The state of RSACORE-32 as plain data (10_state.md R58), the transactions and events of its environment
(R20, R21; 00_scope.md R10), the error codes (60_exceptions.md R200) and what a command's execution answers
(40_command_lifecycle.md R114, R115). -/

namespace Sys2Proof.Machine

/-- BUF as the bytes written since the last hard reset, by rising address. An address it does not list holds a byte no rule
fixes (70_reset_and_hazards.md R241; logs 1, 4). -/
abbrev Memory := List Host.Cell

/-! ### The environment (00_scope.md R10; 10_state.md R20, R21) -/

/-- `kind ∈ {READ, WRITE}` (R20). -/
inductive BusKind where
  | read
  | write
  deriving DecidableEq, Repr

/-- `size ∈ {1, 2, 4}` (R20). -/
inductive AccessSize where
  | byte
  | half
  | word
  deriving DecidableEq, Repr

/-- One host transaction, the port `bus_req` (R20). A READ does not use `wdata`. -/
structure BusReq where
  kind  : BusKind
  off   : BitVec 17
  size  : AccessSize
  wdata : Word := 0#32
  deriving DecidableEq, Repr

/-- `resp ∈ {OK, BUSERR}` (R20). -/
inductive BusResp where
  | ok
  | busErr
  deriving DecidableEq, Repr

/-- The answer to a host transaction, the port `bus_rsp` (R20). -/
structure BusRsp where
  resp : BusResp
  /-- the 32 bits of `rdata`; none where no rule states them, which is the answer OK to a WRITE (log 8) -/
  rdata : Option Word
  deriving DecidableEq, Repr

/-- What happens next (R10): a host transaction, a turn of the engine, or a hard reset (log 6). -/
inductive Event where
  /-- one host transaction -/
  | bus (t : BusReq)
  /-- the engine takes its step, if it has one (40_command_lifecycle.md R113) -/
  | engine
  /-- `rst_n` goes to 0 and back to 1 (70_reset_and_hazards.md R240; log 9) -/
  | hardReset
  deriving DecidableEq, Repr

/-! ### Commands in flight and their results -/

/-- The values `ops` captured at issue (10_state.md R41; 40_command_lifecycle.md R112). -/
structure Operands where
  /-- `x[RS1]` -/
  s1 : Word
  /-- `x[RS2]` -/
  s2 : Word
  /-- `x[RS3]` -/
  s3 : Word
  /-- RCUR -/
  rc : Word
  /-- WCUR -/
  wc : Word
  deriving DecidableEq, Repr

/-- The in-flight command `(cw, ops)` (10_state.md R41). -/
structure InFlight where
  cw  : Word
  ops : Operands
  deriving DecidableEq, Repr

/-- The errors a command can complete with (60_exceptions.md R200). NONE (0) is the absence of one; codes 6 to 15 are never
produced. -/
inductive ErrCode where
  | illegal
  | modZero
  | invMod
  | width
  | bounds
  deriving DecidableEq, Repr

/-- `upd`, "at most: one x[RD] write, one cursor write, BUF byte updates" (40_command_lifecycle.md R114). -/
structure Update where
  reg  : Option (Reg × Word) := none
  rcur : Option Word := none
  wcur : Option Word := none
  /-- the bit addresses of BUF whose bit is ORed with 1 (44_bitstream.md R174), in order -/
  setBits : List Nat := []
  deriving DecidableEq, Repr

/-- `Ok(upd)` or `Err(code)` (40_command_lifecycle.md R114, R115). -/
inductive ExecResult where
  | ok (upd : Update)
  | err (code : ErrCode)
  deriving DecidableEq, Repr

/-! ### The state -/

/-- The architectural state (10_state.md R58), then the model's own fields. `STATUS.BUSY` is `State.busy`, which is
`inflight.isSome`: R22 and R41 make the two one thing (log 10). -/
structure State where
  /-- X0 to X15 (R23) -/
  regs : Vector Word 16
  /-- the read cursor, a bit address (R33) -/
  rcur : Word
  /-- the write cursor, a bit address (R33) -/
  wcur : Word
  /-- the CMD readback (R34) -/
  cmd : Word
  /-- CTRL.IE (R31) -/
  ie : Bool
  /-- STATUS.DONE (R32) -/
  done : Bool
  /-- STATUS.ERR (R32) -/
  err : Bool
  /-- STATUS.OVR (R32) -/
  ovr : Bool
  /-- STATUS.ERRCODE (R32) -/
  errcode : BitVec 4
  /-- ERRCMD (R36) -/
  errcmd : Word
  /-- the in-flight command (R41); none is the spec's own "none" (R40) -/
  inflight : Option InFlight
  /-- BUF, the bytes written since the last hard reset (20_memory.md R60) -/
  buf : Memory
  /-- BUF_BYTES (00_scope.md R9); no step changes it (log 3) -/
  cfg : Config
  /-- the model's own: which hard reset the unwritten bytes of BUF date from (log 2) -/
  epoch : Nat
  /-- the model's own: what the environment does next, first event first (log 6) -/
  inputs : List Event
  /-- the model's own: the answer to the latest host transaction (log 7) -/
  rsp : Option BusRsp
  deriving DecidableEq, Repr

/-- Why a run can stop. The spec stops no command (93_implementation_defined.md: "A model needs no `refuse` or `stuck`
treatment for any command"). -/
inductive Fault where
  /-- Raised by a meaning asked for while no command is in flight (BUSY = 0): the engine then has no enabled step
  (40_command_lifecycle.md R113). `step` never raises it. Safe: the model stops where the hardware has no step (log 11). -/
  | noCommandInFlight
  deriving DecidableEq, Repr

/-- Why an instruction can be refused. No arm of `exec` refuses one. -/
inductive Refusal where
  /-- Raised by `exec` for an instruction that has no meaning yet: none. Safe. -/
  | notModelled (mnemonic : String)
  deriving DecidableEq, Repr

/-- The machine right after a hard reset (10_state.md R40, 70_reset_and_hazards.md R240): every register and flag 0, nothing
in flight, no BUF byte known. BUF_BYTES is R9's default (log 3); `epoch`, `inputs` and `rsp` are the model's own
(DESIGN CHOICE, logs 2, 6, 7). -/
def State.reset : State where
  regs := Vector.replicate 16 0#32
  rcur := 0#32
  wcur := 0#32
  cmd := 0#32
  ie := false
  done := false
  err := false
  ovr := false
  errcode := 0#4
  errcmd := 0#32
  inflight := none
  buf := []
  cfg := {}
  epoch := 0
  inputs := []
  rsp := none

end Sys2Proof.Machine
end

