-- ==== Sys2Proof/Machine/Flags.lean ====
section
/-! DEFINITION. The flags, the error code, the interrupt output, and the words CTRL and STATUS
(10_state.md R31, R32, R38; 60_exceptions.md R200, R215). -/

namespace Sys2Proof.Machine

/-- STATUS.BUSY: 1 exactly while a command is in flight (10_state.md R22, R32, R41; log 10). -/
def State.busy (s : State) : Bool := s.inflight.isSome

/-- The value of an error code (60_exceptions.md R200). -/
def ErrCode.value : ErrCode → BitVec 4
  | .illegal => 1#4
  | .modZero => 2#4
  | .invMod => 3#4
  | .width => 4#4
  | .bounds => 5#4

/-- The interrupt output: `irq = CTRL.IE ∧ (STATUS.DONE ∨ STATUS.ERR)` (60_exceptions.md R215). -/
def State.irq (s : State) : Bool := s.ie && (s.done || s.err)

/-- CTRL as read: IE in bit 0, SRST and the reserved bits read 0 (10_state.md R31). -/
def State.ctrlWord (s : State) : Word := 0#31 ++ BitVec.ofBool s.ie

/-- STATUS as read: BUSY, DONE, ERR, OVR in bits 0 to 3, ERRCODE in 11:8, every other bit 0 (10_state.md R32). -/
def State.statusWord (s : State) : Word :=
  0#20 ++ s.errcode ++ 0#4 ++ BitVec.ofBool s.ovr ++ BitVec.ofBool s.err ++ BitVec.ofBool s.done ++ BitVec.ofBool s.busy

/-- Write-one-to-clear (10_state.md R29): writing 1 clears the bit, writing 0 leaves it. -/
def w1c (flag : Bool) (written : Bool) : Bool := flag && !written

/-- Clearing ERR, the block's counterpart of a return from exception (60_exceptions.md R218): "Writing 1 to bit 2 (clearing
ERR) also sets ERRCODE to 0 and ERRCMD to 0" (10_state.md R32). -/
def State.clearErr (s : State) : State := { s with err := false, errcode := 0#4, errcmd := 0#32 }

/-- The word an illegal or failing command leaves in ERRCODE (R206): the first error since ERR was last cleared is kept. -/
def State.keptErrcode (s : State) (code : ErrCode) : BitVec 4 := if s.err then s.errcode else code.value

/-- The word a failing command leaves in ERRCMD (10_state.md R36, 60_exceptions.md R206). -/
def State.keptErrcmd (s : State) (cw : Word) : Word := if s.err then s.errcmd else cw

end Sys2Proof.Machine
end

