-- ==== Sys2Proof/Machine/Operands.lean ====
section
/-! DEFINITION. The operand forms: operand registers (10_state.md R23, R24), the cursors (R33) and the operand values
captured at issue (40_command_lifecycle.md R112). There are no immediates (30_encoding.md R92). -/

namespace Sys2Proof.Machine

/-- `x[i]` (00_scope.md R14). X0 is an ordinary register (10_state.md R23). -/
def State.reg (s : State) (i : Reg) : Word := s.regs[i.val]

/-- `x[i] <- v` (00_scope.md R14). -/
def State.setReg (s : State) (i : Reg) (v : Word) : State := { s with regs := s.regs.set i.val v }

/-- The field BYTE of a cursor: the buffer byte position, `p div 8` (10_state.md R33). -/
def cursorByte (p : Word) : BitVec 29 := p.extractLsb' 3 29

/-- The field BIT of a cursor: the bit offset within the byte, `p mod 8` (10_state.md R33). -/
def cursorBit (p : Word) : BitVec 3 := p.extractLsb' 0 3

/-- The values a command word's fields select, with both cursors: `ops` of R110, R112. -/
def State.captureOps (s : State) (cw : Word) : Operands :=
  let f := CommandFields.ofWord cw
  { s1 := s.reg (regOfField f.rs1)
    s2 := s.reg (regOfField f.rs2)
    s3 := s.reg (regOfField f.rs3)
    rc := s.rcur
    wc := s.wcur }

end Sys2Proof.Machine
end

