-- ==== Sys2Proof/Machine/Ops.lean ====
section
/-! DEFINITION. The named operations: BUF by byte, by bit and by little-endian access (20_memory.md R60, R63, R64;
00_scope.md R14), issue (40_command_lifecycle.md R110), commit (R114), the error completion (60_exceptions.md R205), and
the two resets (70_reset_and_hazards.md R240, R242). -/

namespace Sys2Proof.Machine

/-! ### The list of written bytes -/

namespace Memory

/-- The byte listed at `a`, none where nothing has been written. -/
def read? : Memory → Nat → Option Byte
  | [], _ => none
  | (k, b) :: m, a => if k = a then some b else read? m a

/-- The list with `b` at `a`, addresses still rising. -/
def write : Memory → Nat → Byte → Memory
  | [], a, b => [(a, b)]
  | (k, c) :: m, a, b =>
    if a < k then (a, b) :: (k, c) :: m
    else if a = k then (a, b) :: m
    else (k, c) :: write m a b

/-- The canonical form: addresses strictly rising. No entry equals what an unlisted address reads as, since that is "no
value written" (log 4). -/
def wf : Memory → Bool
  | [] => true
  | [_] => true
  | (a, _) :: (k, c) :: m => decide (a < k) && wf ((k, c) :: m)

end Memory

/-! ### BUF -/

/-- `BUF[a]` (00_scope.md R14). A byte nothing has written since the hard reset reads as a free value: "Reading a byte that
no host write has set since hard reset is not an error in the hardware. It returns whatever the byte holds."
(70_reset_and_hazards.md R241; log 1). -/
def State.bufByte (s : State) (a : Nat) : Byte := (Memory.read? s.buf a).getD (Config.freeByte s.epoch a)

/-- `BUF[a] <- b` (00_scope.md R14). -/
def State.setByte (s : State) (a : Nat) (b : Byte) : State := { s with buf := Memory.write s.buf a b }

/-- `Bit(p)`: bit `p mod 8` of byte `p div 8`, bit 0 the least significant (20_memory.md R63). -/
def State.bufBit (s : State) (p : Nat) : Bool := (s.bufByte (p / 8)).getLsbD (p % 8)

/-- `BUF[p div 8] <- BUF[p div 8] OR 2^(p mod 8)` (44_bitstream.md R174). -/
def State.setBit (s : State) (p : Nat) : State :=
  s.setByte (p / 8) (s.bufByte (p / 8) ||| BitVec.twoPow 8 (p % 8))

/-- `MemRead(a, k)`: the k-byte little-endian value (00_scope.md R14, 20_memory.md R64). -/
def State.memRead (s : State) (a : Nat) : Nat → Nat
  | 0 => 0
  | k + 1 => s.memRead a k + (s.bufByte (a + k)).toNat * 2 ^ (8 * k)

/-- `MemWrite(a, k, v)`: `BUF[a+j] <- v[8j+7:8j]` for `j < k` (00_scope.md R14, 20_memory.md R64). -/
def State.memWrite (s : State) (a : Nat) (v : Word) : Nat → State
  | 0 => s
  | k + 1 => (s.memWrite a v k).setByte (a + k) (v.extractLsb' (8 * k) 8)

/-- The value of the `w`-bit field at bit address `c`: `Σ_{k<w} Bit(c + k) · 2^k` (44_bitstream.md R170, R171). -/
def State.field (s : State) (c : Nat) : Nat → Nat
  | 0 => 0
  | k + 1 => s.field c k + (s.bufBit (c + k)).toNat * 2 ^ k

/-- The number of bits of BUF, `8 · BUF_BYTES` (20_memory.md R61). -/
def State.bufBits (s : State) : Nat := 8 * s.cfg.bufBytes

/-! ### Issue and completion -/

/-- Issue (40_command_lifecycle.md R110): the readback, the captured operands, BUSY to 1 and DONE to 0, and nothing else.
BUSY is 1 because a command is in flight. -/
def State.issue (s : State) (cw : Word) : State :=
  { s with cmd := cw, inflight := some ⟨cw, s.captureOps cw⟩, done := false }

/-- A register write of an update, if it has one (R114). -/
def applyReg (regs : Vector Word 16) : Option (Reg × Word) → Vector Word 16
  | none => regs
  | some (rd, v) => regs.set rd.val v

/-- Sets the bits of BUF an update names, in order (R114, R174). -/
def State.setAll (s : State) (ps : List Nat) : State := ps.foldl State.setBit s

/-- The commit of `Ok(upd)` in one step (40_command_lifecycle.md R114): the update, DONE to 1, BUSY to 0, no command left. -/
def State.commit (s : State) (u : Update) : State :=
  { s with
    regs := applyReg s.regs u.reg
    rcur := u.rcur.getD s.rcur
    wcur := u.wcur.getD s.wcur
    buf := (s.setAll u.setBits).buf
    done := true
    inflight := none }

/-- TAKING AN EXCEPTION. The error completion of the command word `cw` (60_exceptions.md R205, R206): the first error since
ERR was cleared is recorded in ERRCODE and ERRCMD, ERR and DONE become 1, BUSY becomes 0, and no operand register, cursor or
BUF byte changes. This is the block's whole counterpart of a trap entry (R217); its return is `State.clearErr` (R218). -/
def State.errorCompletion (s : State) (cw : Word) (code : ErrCode) : State :=
  { s with
    errcode := s.keptErrcode code
    errcmd := s.keptErrcmd cw
    err := true
    done := true
    inflight := none }

/-- The completion step for a result (40_command_lifecycle.md R114). -/
def State.finish (s : State) (cw : Word) : ExecResult → State
  | .ok u => s.commit u
  | .err code => s.errorCompletion cw code

/-- The completion of the in-flight command with the result `Exec` computes from its captured operands (R114, R115). With
no command in flight the engine has no step (R113; log 11). -/
def State.complete (s : State) (res : Operands → ExecResult) : Host.Outcome State Fault Refusal :=
  match s.inflight with
  | none => .fault .noCommandInFlight
  | some f => .next (s.finish f.cw (res f.ops))

/-! ### Resets -/

/-- Soft reset (70_reset_and_hazards.md R242; "soft reset" column of 10_state.md R40): every register and flag to 0, the
in-flight command dropped with no commit (R243), BUF unchanged. -/
def State.softReset (s : State) : State :=
  { s with
    regs := Vector.replicate 16 0#32
    rcur := 0#32
    wcur := 0#32
    cmd := 0#32
    ie := false
    done := false
    err := false
    ovr := false
    errcode := 0#4
    errcmd := 0#32
    inflight := none }

/-- Hard reset (70_reset_and_hazards.md R240; "hard reset" column of R40): as `State.reset`, with BUF a fresh set of free
bytes (R241; log 2). The configuration and what the environment does next are not the block's to reset. -/
def State.hardReset (s : State) : State :=
  { State.reset with cfg := s.cfg, epoch := s.epoch + 1, inputs := s.inputs }

end Sys2Proof.Machine
end

