-- ==== Sys2Proof/Machine/Bus.lean ====
section
/-! DEFINITION. The host step (40_command_lifecycle.md R121): the aperture's map (10_state.md R25 to R28), alignment and bus
errors (20_memory.md R66, R67), reads (R64, R71), writes with busy protection (10_state.md R39), CTRL, STATUS and CMD. -/

namespace Sys2Proof.Machine

/-! ### The aperture -/

/-- The host address of an aperture offset (00_scope.md R9; log 15). -/
def hostAddress (off : BitVec 17) : Nat := Config.baseIndex * Config.apertureBytes + off.toNat

/-- The aperture offset of a host address, none outside the aperture (10_state.md R25; log 15). -/
def apertureOffset? (addr : Nat) : Option (BitVec 17) :=
  if addr / Config.apertureBytes = Config.baseIndex then some (BitVec.ofNat 17 (addr % Config.apertureBytes)) else none

/-- The registers of the register map (10_state.md R25). -/
inductive RegName where
  | id
  | ctrl
  | status
  | cmd
  | rcur
  | wcur
  | bufsize
  | errcmd
  | x (i : Reg)
  deriving DecidableEq, Repr

/-- What an offset names (10_state.md R25, R26, R28; 20_memory.md R62). -/
inductive Target where
  /-- a register -/
  | reg (r : RegName)
  /-- a reserved offset of the register region (R28) -/
  | reserved
  /-- BUF byte `a`, through the window (R26) -/
  | byte (a : Nat)
  /-- the window beyond BUF (R62) -/
  | beyondBuf
  deriving DecidableEq, Repr

/-- The register at an offset of the register region (10_state.md R25), none at a reserved one. -/
def registerAt (off : Nat) : Option RegName :=
  if off = 0x00000 then some .id
  else if off = 0x00004 then some .ctrl
  else if off = 0x00008 then some .status
  else if off = 0x0000C then some .cmd
  else if off = 0x00010 then some .rcur
  else if off = 0x00014 then some .wcur
  else if off = 0x00018 then some .bufsize
  else if off = 0x0001C then some .errcmd
  else if 0x00040 ≤ off ∧ off < 0x00080 ∧ off % 4 = 0 then some (.x (Fin.ofNat 16 ((off - 0x00040) / 4)))
  else none

/-- The offset of a register (10_state.md R25). -/
def RegName.offset : RegName → BitVec 17
  | .id => 0x00000#17
  | .ctrl => 0x00004#17
  | .status => 0x00008#17
  | .cmd => 0x0000C#17
  | .rcur => 0x00010#17
  | .wcur => 0x00014#17
  | .bufsize => 0x00018#17
  | .errcmd => 0x0001C#17
  | .x i => BitVec.ofNat 17 (0x00040 + 4 * i.val)

/-- The first offset of the buffer window (10_state.md R25). -/
def windowBase : Nat := 0x10000

/-- The target of an offset, for a buffer of `bufBytes` bytes. -/
def targetOf (bufBytes : Nat) (off : BitVec 17) : Target :=
  if off.toNat < windowBase then
    match registerAt off.toNat with
    | some r => .reg r
    | none => .reserved
  else if off.toNat - windowBase < bufBytes then .byte (off.toNat - windowBase)
  else .beyondBuf

/-- The number of bytes of an access (10_state.md R20). -/
def AccessSize.bytes : AccessSize → Nat
  | .byte => 1
  | .half => 2
  | .word => 4

/-- A transaction that does not get BUSERR: in the register region 4 bytes wide and aligned to 4 (20_memory.md R66), in the
window naturally aligned (R67). -/
def BusReq.wellPlaced (t : BusReq) : Bool :=
  if t.off.toNat < windowBase then t.size == .word && t.off.toNat % 4 == 0
  else t.off.toNat % t.size.bytes == 0

/-! ### Reads -/

/-- The value of a register as the host reads it (10_state.md R30 to R36). While BUSY = 1 this is the value from before the
command, which changes registers only at its commit (R39). -/
def State.readRegister (s : State) : RegName → Word
  | .id => Config.idValue
  | .ctrl => s.ctrlWord
  | .status => s.statusWord
  | .cmd => s.cmd
  | .rcur => s.rcur
  | .wcur => s.wcur
  | .bufsize => BitVec.ofNat 32 s.cfg.bufBytes
  | .errcmd => s.errcmd
  | .x i => s.reg i

/-- The value of a READ (R121), zero-extended to 32 bits (10_state.md R21). -/
def State.busRead (s : State) (t : BusReq) : Word :=
  match targetOf s.cfg.bufBytes t.off with
  | .reg r => s.readRegister r
  | .reserved => 0#32
  | .byte a => BitVec.ofNat 32 (s.memRead a t.size.bytes)
  | .beyondBuf => 0#32

/-! ### Writes -/

/-- A WRITE to busy-protected state: dropped with OVR set while BUSY = 1, else applied (10_state.md R39, 60_exceptions.md
R208). -/
def State.busyProtected (s : State) (write : State → State) : State :=
  if s.busy then { s with ovr := true } else write s

/-- A WRITE to CTRL (10_state.md R31): with bit 1 set a soft reset, and the written IE is ignored; else IE is bit 0. -/
def State.writeCtrl (s : State) (w : Word) : State :=
  if w.getLsbD 1 then s.softReset else { s with ie := w.getLsbD 0 }

/-- A WRITE to STATUS (10_state.md R32): DONE, ERR and OVR are W1C, and clearing ERR zeroes ERRCODE and ERRCMD. -/
def State.writeStatus (s : State) (w : Word) : State :=
  let s := { s with done := w1c s.done (w.getLsbD 1), ovr := w1c s.ovr (w.getLsbD 3) }
  if w.getLsbD 2 then s.clearErr else s

/-- A WRITE to a register (R121). ID, BUFSIZE and ERRCMD ignore it (10_state.md R29). -/
def State.writeRegister (s : State) (w : Word) : RegName → State
  | .id => s
  | .ctrl => s.writeCtrl w
  | .status => s.writeStatus w
  | .cmd => s.busyProtected fun s => s.issue w
  | .rcur => s.busyProtected fun s => { s with rcur := w }
  | .wcur => s.busyProtected fun s => { s with wcur := w }
  | .bufsize => s
  | .errcmd => s
  | .x i => s.busyProtected fun s => s.setReg i w

/-- The effect of a WRITE (R121). -/
def State.busWrite (s : State) (t : BusReq) : State :=
  match targetOf s.cfg.bufBytes t.off with
  | .reg r => s.writeRegister t.wdata r
  | .reserved => s
  | .byte a => s.busyProtected fun s => s.memWrite a t.wdata t.size.bytes
  | .beyondBuf => s

/-! ### The host step -/

/-- `resp = OK` to a READ, with the value read (10_state.md R21). -/
abbrev BusRsp.readOk (v : Word) : BusRsp := { resp := .ok, rdata := some v }

/-- `resp = OK` to a WRITE, whose `rdata` R21 does not state (log 8). -/
abbrev BusRsp.writeOk : BusRsp := { resp := .ok, rdata := none }

/-- "A transaction with `resp = BUSERR` changes no state and returns `rdata = 0`" (10_state.md R21). -/
abbrev BusRsp.busErr : BusRsp := { resp := .busErr, rdata := some 0#32 }

/-- The answer to a transaction (10_state.md R20, R21). -/
def State.answer (s : State) (t : BusReq) : BusRsp :=
  if t.wellPlaced then
    match t.kind with
    | .read => .readOk (s.busRead t)
    | .write => .writeOk
  else .busErr

/-- The effect of a transaction on the block: a WRITE's, and none for a READ (20_memory.md R71) or a BUSERR (10_state.md
R21). -/
def State.busEffect (s : State) (t : BusReq) : State :=
  if t.wellPlaced then
    match t.kind with
    | .read => s
    | .write => s.busWrite t
  else s

/-- The host step for one transaction, in one atomic step (R121, 20_memory.md R70). -/
def State.hostStep (s : State) (t : BusReq) : State := { s.busEffect t with rsp := some (s.answer t) }

end Sys2Proof.Machine
end

