-- ==== Sys2Proof/Machine/BitStream.lean ====
section
/-! DEFINITION. The bit packer and unpacker (44_bitstream.md R170 to R175). -/

namespace Sys2Proof.Machine

/-- The checks of R171 and R174 on the width `w` at cursor `c`, WIDTH before BOUNDS (60_exceptions.md R204, R210), then the
update. The sum `c + w` is exact (R172), and a field of width 0 is never out of bounds. -/
def State.checkField (s : State) (c w : Nat) (upd : Update) : ExecResult :=
  if w > W then .err .width
  else if w > 0 ∧ c + w > s.bufBits then .err .bounds
  else .ok upd

/-- The bit addresses WRBITS sets: `c + k` for each `k < w` with `v[k] = 1` (R174). -/
def fieldOnes (v : Word) (c w : Nat) : List Nat :=
  ((List.range w).filter fun k => v.getLsbD k).map (c + ·)

/-- R171: `x[RD] <- v ; RCUR <- c + w`. -/
def rdbitsResult (s : State) (rd : Reg) (ops : Operands) : ExecResult :=
  s.checkField ops.rc.toNat ops.s1.toNat
    { reg := some (rd, BitVec.ofNat 32 (s.field ops.rc.toNat ops.s1.toNat))
      rcur := some (ops.rc + ops.s1) }

/-- R174: the field's ones ORed into BUF, `WCUR <- c + w`. -/
def wrbitsResult (s : State) (ops : Operands) : ExecResult :=
  s.checkField ops.wc.toNat ops.s2.toNat
    { setBits := fieldOnes ops.s1 ops.wc.toNat ops.s2.toNat
      wcur := some (ops.wc + ops.s2) }

/-- RDBITS (R171). -/
def execRdbits (rd : Reg) (s : State) : Host.Outcome State Fault Refusal := s.complete (rdbitsResult s rd)

/-- WRBITS (R174). -/
def execWrbits (s : State) : Host.Outcome State Fault Refusal := s.complete (wrbitsResult s)

end Sys2Proof.Machine
end

