-- ==== Sys2Proof/Machine/BitWidth.lean ====
section
/-! DEFINITION. The bit-width oracle and the leading-zero count (41_bitwidth.md R130, R132). -/

namespace Sys2Proof.Machine

/-- The scan of R130 from bit `i - 1` downward: `i + 1` for the highest set bit `i`, 0 if there is none. -/
def bitScan (v : Word) : Nat → Nat
  | 0 => 0
  | i + 1 => if v.getLsbD i then i + 1 else bitScan v i

/-- `bitlength(v)`: the scan from the highest representable bit index, 31 (R130, R131). -/
def bitlength (v : Word) : Nat := bitScan v W

/-- `x[RD] <- bitlength(v)` (R130). -/
def bitlenResult (rd : Reg) (ops : Operands) : ExecResult :=
  .ok { reg := some (rd, BitVec.ofNat 32 (bitlength ops.s1)) }

/-- `x[RD] <- W - bitlength(v)` (R132). -/
def clzResult (rd : Reg) (ops : Operands) : ExecResult :=
  .ok { reg := some (rd, BitVec.ofNat 32 (W - bitlength ops.s1)) }

/-- BITLEN (R130). -/
def execBitlen (rd : Reg) (s : State) : Host.Outcome State Fault Refusal := s.complete (bitlenResult rd)

/-- CLZ (R132). -/
def execClz (rd : Reg) (s : State) : Host.Outcome State Fault Refusal := s.complete (clzResult rd)

end Sys2Proof.Machine
end

