-- ==== Sys2Proof/Machine/Control.lean ====
section
/-! DEFINITION. The control command NOP (40_command_lifecycle.md R120). -/

namespace Sys2Proof.Machine

/-- `return Ok({})` (R120). -/
def nopResult : ExecResult := .ok {}

/-- NOP: the completion sets DONE and clears BUSY, nothing else (R120). -/
def execNop (s : State) : Host.Outcome State Fault Refusal := s.complete fun _ => nopResult

end Sys2Proof.Machine
end

