-- ==== Sys2Proof/Machine/Inverse.lean ====
section
/-! DEFINITION. The extended-Euclidean inverse engine (43_inverse.md R160 to R164). -/

namespace Sys2Proof.Machine

/-- The loop of R161 on `(x2, x3)` and `(y2, y3)`, with the invariants `x2·d ≡ x3` and `y2·d ≡ y3 (mod f)`: the Bézout
coefficient of `d` when the remainder reaches 1, none when it reaches 0. The remainder `y3` falls at every turn, so
`y3 + 1` turns are enough fuel. -/
def euclid : (fuel : Nat) → (x2 y2 : Int) → (x3 y3 : Nat) → Option Int
  | 0, _, _, _, _ => none
  | fuel + 1, x2, y2, x3, y3 =>
    if y3 = 0 then none
    else if y3 = 1 then some y2
    else euclid fuel y2 (x2 - (x3 / y3 : Nat) * y2) y3 (x3 % y3)

/-- The inverse of `d` modulo `f`, or the sentinel 0 (R160, R162). R161 normalizes a negative coefficient "by adding f";
taking it modulo `f` is the same value (log 13). -/
def modInverse (d f : Nat) : Nat :=
  match euclid (d + 1) 0 1 f d with
  | some y => (y % (f : Int)).toNat
  | none => 0

/-- INVMOD for `f ≤ 1` (R163, 60_exceptions.md R203), else `x[RD] <- inverse(d, f)` (R160). -/
def modinvResult (rd : Reg) (ops : Operands) : ExecResult :=
  if ops.s2.toNat ≤ 1 then .err .invMod
  else .ok { reg := some (rd, BitVec.ofNat 32 (modInverse ops.s1.toNat ops.s2.toNat)) }

/-- MODINV (R160). -/
def execModinv (rd : Reg) (s : State) : Host.Outcome State Fault Refusal := s.complete (modinvResult rd)

end Sys2Proof.Machine
end

