-- ==== Sys2Proof/Machine/ModArith.lean ====
section
/-! DEFINITION. The modular multiplier, reducer and exponentiator (42_modarith.md R140 to R148). Products and residues are
exact naturals (00_scope.md R12); a residue is below the modulus, so narrowing it to 32 bits loses nothing (R142). How the
hardware reduces is invisible (R141; log 13). -/

namespace Sys2Proof.Machine

/-- `x[RD] <- v mod n`, or MODZERO when `n = 0` (R148, 60_exceptions.md R202). -/
def residueResult (rd : Reg) (n : Word) (v : Nat) : ExecResult :=
  if n = 0#32 then .err .modZero
  else .ok { reg := some (rd, BitVec.ofNat 32 (v % n.toNat)) }

/-- The double-width value `{hi, lo} = hi·2^32 + lo` (R143). -/
def doubleWord (hi lo : Word) : Nat := hi.toNat * 2 ^ 32 + lo.toNat

/-- The loop of R146 over the bits `i - 1` down to 0 of `b`: square, then multiply where the bit is set, each reduced. -/
def modexpLoop (a b n : Nat) : Nat → Nat → Nat
  | 0, D => D
  | i + 1, D =>
    let sq := D * D % n
    modexpLoop a b n i (if b.testBit i then sq * a % n else sq)

/-- Square-and-multiply from `D = 1` over all 32 bit positions (R146, R147). -/
def modexp (a b n : Nat) : Nat := modexpLoop a b n W 1

/-- R140. -/
def modmulResult (rd : Reg) (ops : Operands) : ExecResult :=
  residueResult rd ops.s3 (ops.s1.toNat * ops.s2.toNat)

/-- R143. -/
def modredResult (rd : Reg) (ops : Operands) : ExecResult :=
  residueResult rd ops.s3 (doubleWord ops.s1 ops.s2)

/-- R146. -/
def modexpResult (rd : Reg) (ops : Operands) : ExecResult :=
  if ops.s3 = 0#32 then .err .modZero
  else .ok { reg := some (rd, BitVec.ofNat 32 (modexp ops.s1.toNat ops.s2.toNat ops.s3.toNat)) }

/-- MODMUL (R140). -/
def execModmul (rd : Reg) (s : State) : Host.Outcome State Fault Refusal := s.complete (modmulResult rd)

/-- MODRED (R143). -/
def execModred (rd : Reg) (s : State) : Host.Outcome State Fault Refusal := s.complete (modredResult rd)

/-- MODEXP (R146). -/
def execModexp (rd : Reg) (s : State) : Host.Outcome State Fault Refusal := s.complete (modexpResult rd)

end Sys2Proof.Machine
end

