-- ==== Sys2Proof/Machine/Dispatch.lean ====
section
/-! DEFINITION. `Exec` dispatch (40_command_lifecycle.md R115) with its completion (R114). The source operands are the ones
captured at issue (R112), so an arm passes on only the destination. -/

namespace Sys2Proof.Machine

def exec (i : Instr) (s : State) : Host.Outcome State Fault Refusal :=
  match i with
  | .nop => Sys2Proof.Machine.execNop s
  | .bitlen rd _ => Sys2Proof.Machine.execBitlen rd s
  | .clz rd _ => Sys2Proof.Machine.execClz rd s
  | .modmul rd _ _ _ => Sys2Proof.Machine.execModmul rd s
  | .modred rd _ _ _ => Sys2Proof.Machine.execModred rd s
  | .modexp rd _ _ _ => Sys2Proof.Machine.execModexp rd s
  | .modinv rd _ _ => Sys2Proof.Machine.execModinv rd s
  | .rdbits rd _ => Sys2Proof.Machine.execRdbits rd s
  | .wrbits _ _ => Sys2Proof.Machine.execWrbits s

end Sys2Proof.Machine
end

