-- ==== Sys2Proof/Machine/Engine.lean ====
section
/-! DEFINITION. The engine step (40_command_lifecycle.md R113 to R115) and the step for one event (00_scope.md R10). -/

namespace Sys2Proof.Machine

/-- The engine's turn. With a command in flight its one step is the completion: `exec` of a legal word, the error ILLEGAL
for any other (R115, 60_exceptions.md R201). With none it has no step (R113), and the state is retained
(60_exceptions.md R226). -/
def engineStep (s : State) : Host.Outcome State Fault Refusal :=
  match s.inflight with
  | none => .next s
  | some f =>
    match decode f.cw with
    | .command i => exec i s
    | .illegal _ => .next (s.errorCompletion f.cw .illegal)

/-- What one event does (00_scope.md R10; log 6). -/
def eventStep (s : State) : Event → Host.Outcome State Fault Refusal
  | .bus t => .next (s.hostStep t)
  | .engine => engineStep s
  | .hardReset => .next s.hardReset

/-- One step of the block: the environment's next event, or, when no event is listed, the engine's turn, so that an issued
command completes (70_reset_and_hazards.md R262; log 6). -/
def blockStep (s : State) : Host.Outcome State Fault Refusal :=
  match s.inputs with
  | [] => engineStep s
  | e :: rest => eventStep { s with inputs := rest } e

/-- The state in which the very next step completes the command word `cw`, issued now (log 5). -/
def State.withCommand (s : State) (cw : Word) : State :=
  { s.issue cw with inputs := .engine :: s.inputs }

end Sys2Proof.Machine
end

