-- ==== Sys2Proof/Machine/Step.lean ====
section
/-! DEFINITION. `step`, and how an instruction is placed where `step` runs it next. -/

namespace Sys2Proof.Machine

/-- One step of RSACORE-32 (00_scope.md R10). -/
def step (s : State) : Host.Outcome State Fault Refusal := blockStep s

/-- There is no program counter and nothing is fetched (10_state.md R22): the engine runs the command in flight. So the word
is put in flight as an issue does, with the engine's turn next (log 5). -/
def State.withFetchWord (s : State) (nbits w : Nat) : State := s.withCommand (tableWord nbits w)

end Sys2Proof.Machine
end

