-- ==== Sys2Proof/Machine/HostProgram.lean ====
section
/-! DEFINITION. The written forms of commands and host programs: assembler syntax (30_encoding.md R99, R100) and the host
operations with their expansion into transactions (R101). They are notation; no step of the block uses them. -/

namespace Sys2Proof.Machine

/-! ### Assembler syntax (R99) -/

/-- The mnemonic, letter by letter (R99). -/
def mnemonicChars : Instr → List Char
  | .nop => ['N', 'O', 'P']
  | .bitlen _ _ => ['B', 'I', 'T', 'L', 'E', 'N']
  | .clz _ _ => ['C', 'L', 'Z']
  | .modmul _ _ _ _ => ['M', 'O', 'D', 'M', 'U', 'L']
  | .modred _ _ _ _ => ['M', 'O', 'D', 'R', 'E', 'D']
  | .modexp _ _ _ _ => ['M', 'O', 'D', 'E', 'X', 'P']
  | .modinv _ _ _ => ['M', 'O', 'D', 'I', 'N', 'V']
  | .rdbits _ _ => ['R', 'D', 'B', 'I', 'T', 'S']
  | .wrbits _ _ => ['W', 'R', 'B', 'I', 'T', 'S']

/-- The operands in the order of the syntax table (R99). -/
def operandList : Instr → List Reg
  | .nop => []
  | .bitlen rd rs1 => [rd, rs1]
  | .clz rd rs1 => [rd, rs1]
  | .modmul rd rs1 rs2 rs3 => [rd, rs1, rs2, rs3]
  | .modred rd rs1 rs2 rs3 => [rd, rs1, rs2, rs3]
  | .modexp rd rs1 rs2 rs3 => [rd, rs1, rs2, rs3]
  | .modinv rd rs1 rs2 => [rd, rs1, rs2]
  | .rdbits rd rs1 => [rd, rs1]
  | .wrbits rs1 rs2 => [rs1, rs2]

/-- A decimal digit. -/
def digitChar (n : Nat) : Char := Char.ofNat (48 + n)

/-- The digits of a register number, 0 to 15. -/
def regDigits (r : Reg) : List Char :=
  if r.val < 10 then [digitChar r.val] else ['1', digitChar (r.val - 10)]

/-- `X<i>` (R99). -/
def regChars (r : Reg) : List Char := 'X' :: regDigits r

/-- Operands separated by a comma and a space (R99). -/
def operandChars : List Reg → List Char
  | [] => []
  | [r] => regChars r
  | r :: rs => regChars r ++ [',', ' '] ++ operandChars rs

/-- The written form of a command: `MNEMONIC operand, operand, ...` (R99). -/
def asmText (i : Instr) : List Char :=
  match operandList i with
  | [] => mnemonicChars i
  | ops => mnemonicChars i ++ [' '] ++ operandChars ops

/-- The text without spaces at its two ends. -/
def trimSpaces (cs : List Char) : List Char :=
  ((cs.dropWhile (· == ' ')).reverse.dropWhile (· == ' ')).reverse

/-- The pieces between commas. -/
def splitCommas : List Char → List (List Char)
  | [] => [[]]
  | c :: cs =>
    if c = ',' then [] :: splitCommas cs
    else match splitCommas cs with
      | [] => [[c]]
      | p :: ps => (c :: p) :: ps

/-- A register name, "case-insensitive" (R99). -/
def parseReg : List Char → Option Reg
  | [] => none
  | c :: ds => if c.toUpper = 'X' then (List.finRange 16).find? (fun r => regDigits r == ds) else none

/-- The command with this mnemonic, in capitals, and these operands (R99). -/
def commandOf (mnemonic : List Char) (ops : List Reg) : Option Instr :=
  let candidate : Option Instr :=
    match ops with
    | [] => some .nop
    | [a, b] =>
      [.bitlen a b, .clz a b, .rdbits a b, .wrbits a b].find? (fun i => mnemonicChars i == mnemonic)
    | [a, b, c] => some (.modinv a b c)
    | [a, b, c, d] =>
      [.modmul a b c d, .modred a b c d, .modexp a b c d].find? (fun i => mnemonicChars i == mnemonic)
    | _ => none
  candidate.filter (fun i => mnemonicChars i == mnemonic)

/-- The command a line of text writes, none where it writes none (R99; log 20). -/
def parseAsm (line : List Char) : Option Instr :=
  let cs := trimSpaces line
  let mnemonic := (cs.takeWhile (· != ' ')).map Char.toUpper
  let rest := trimSpaces (cs.dropWhile (· != ' '))
  let pieces := if rest = [] then [] else (splitCommas rest).map trimSpaces
  (pieces.mapM parseReg).bind (commandOf mnemonic)

/-- An assembler: the word of the command a line writes, every unused field 0 (R99). -/
def assemble (line : List Char) : Option Word := (parseAsm line).map encode

/-! ### Host-program notation (R101) -/

/-- `HW reg, v`: one 4-byte WRITE to the register's offset. -/
def hostWrite (r : RegName) (v : Word) : BusReq := ⟨.write, r.offset, .word, v⟩

/-- `HR reg`: one READ of the register. -/
def hostRead (r : RegName) : BusReq := ⟨.read, r.offset, .word, 0#32⟩

/-- The offset of BUF byte `a` in the buffer window, `0x10000 + a` (10_state.md R26). -/
def windowOffset (a : Nat) : BitVec 17 := BitVec.ofNat 17 (windowBase + a)

/-- `HW.k BUF[a], v`: one k-byte WRITE at window offset `0x10000 + a`. -/
def hostWriteBuf (a : Nat) (v : Word) (k : AccessSize := .word) : BusReq := ⟨.write, windowOffset a, k, v⟩

/-- `HR.k BUF[a]`: one k-byte READ. -/
def hostReadBuf (a : Nat) (k : AccessSize := .word) : BusReq := ⟨.read, windowOffset a, k, 0#32⟩

/-- `ISSUE cmd`, which is `HW CMD, enc(cmd)`. -/
def issueReq (i : Instr) : BusReq := hostWrite .cmd (encode i)

/-- `WAIT`: `repeat { s <- HR STATUS } until s[0] = 0`, in a run where the loop takes `polls` turns. How many it takes is
the host's to see from the answers (20_memory.md R76). -/
def waitReqs (polls : Nat) : List BusReq := List.replicate polls (hostRead .status)

/-- `EXEC cmd`: `ISSUE cmd` then `WAIT`. -/
def execReqs (i : Instr) (polls : Nat) : List BusReq := issueReq i :: waitReqs polls

end Sys2Proof.Machine
end

