-- ==== Sys2Proof/Safety.lean ====
section
/-! DEFINITION. The terms the statements use: the invariant of the state, what a good and a failed completion leave, runs,
and which registers a command may write. -/

namespace Sys2Proof.Machine

/-! ### The invariant -/

/-- What holds of every state a run from reset reaches. -/
structure State.Inv (s : State) : Prop where
  /-- BUF is in its canonical form (log 4) -/
  bufCanonical : Memory.wf s.buf = true
  /-- only bytes of BUF are held: `0 ≤ a < BUF_BYTES` (20_memory.md R60) -/
  bufInRange : ∀ c ∈ s.buf, c.1 < s.cfg.bufBytes
  /-- BUF_BYTES is one of the values R9 admits -/
  cfgLegal : s.cfg.Legal
  /-- ERRCODE and ERRCMD are 0 while ERR = 0 (10_state.md R32) -/
  noErrorRecorded : s.err = false → s.errcode = 0#4 ∧ s.errcmd = 0#32
  /-- ERRCODE is one of the codes 1 to 5 while ERR = 1 (60_exceptions.md R200) -/
  errorRecorded : s.err = true → 1 ≤ s.errcode.toNat ∧ s.errcode.toNat ≤ 5
  /-- the in-flight word is the CMD readback (10_state.md R41) -/
  inflightCmd : ∀ f, s.inflight = some f → f.cw = s.cmd
  /-- the captured operands are the registers' current values (40_command_lifecycle.md R112) -/
  inflightOps : ∀ f, s.inflight = some f → f.ops = s.captureOps f.cw
  /-- DONE is 0 from an issue until its completion (10_state.md R32) -/
  busyNotDone : ∀ f, s.inflight = some f → s.done = false

/-! ### Completions -/

/-- What every completion leaves alone, with or without an error: CTRL.IE, OVR, the CMD readback, the configuration, the
environment (40_command_lifecycle.md R114; 10_state.md R38). -/
structure SameSurroundings (s t : State) : Prop where
  ie : t.ie = s.ie
  ovr : t.ovr = s.ovr
  cmd : t.cmd = s.cmd
  cfg : t.cfg = s.cfg
  epoch : t.epoch = s.epoch
  inputs : t.inputs = s.inputs
  rsp : t.rsp = s.rsp

/-- The flags after a completion without error (40_command_lifecycle.md R114): DONE 1, BUSY 0, the error record untouched. -/
structure CompletedOk (s t : State) : Prop extends SameSurroundings s t where
  done : t.done = true
  idle : t.busy = false
  err : t.err = s.err
  errcode : t.errcode = s.errcode
  errcmd : t.errcmd = s.errcmd

/-- An error completion of the word `cw` with the code `code` (60_exceptions.md R205, R206): precise, the first error
kept. -/
structure FailedWith (cw : Word) (code : BitVec 4) (s t : State) : Prop extends SameSurroundings s t where
  regs : ∀ r, t.reg r = s.reg r
  rcur : t.rcur = s.rcur
  wcur : t.wcur = s.wcur
  buf : ∀ a, t.bufByte a = s.bufByte a
  recorded : s.err = false → t.errcode = code ∧ t.errcmd = cw
  kept : s.err = true → t.errcode = s.errcode ∧ t.errcmd = s.errcmd
  err : t.err = true
  done : t.done = true
  idle : t.busy = false

/-- No operand register but `rd` differs. -/
def OnlyRegister (rd : Reg) (s t : State) : Prop := ∀ r, r ≠ rd → t.reg r = s.reg r

/-- Every operand register is the same. -/
def SameRegisters (s t : State) : Prop := ∀ r, t.reg r = s.reg r

/-- Both cursors are the same. -/
def SameCursors (s t : State) : Prop := t.rcur = s.rcur ∧ t.wcur = s.wcur

/-- Every byte of BUF reads the same. -/
def SameBuf (s t : State) : Prop := ∀ a, t.bufByte a = s.bufByte a

/-! ### Commands -/

/-- The destination register of a command (10_state.md R24): "NOP and WRBITS write no operand register". -/
def destination : Instr → Option Reg
  | .nop => none
  | .bitlen rd _ => some rd
  | .clz rd _ => some rd
  | .modmul rd _ _ _ => some rd
  | .modred rd _ _ _ => some rd
  | .modexp rd _ _ _ => some rd
  | .modinv rd _ _ => some rd
  | .rdbits rd _ => some rd
  | .wrbits _ _ => none

/-- The error codes a legal command can complete with (60_exceptions.md R209, less ILLEGAL, which is a property of the
word). -/
def possibleErrors : Instr → List (BitVec 4)
  | .nop => []
  | .bitlen _ _ => []
  | .clz _ _ => []
  | .modmul _ _ _ _ => [2#4]
  | .modred _ _ _ _ => [2#4]
  | .modexp _ _ _ _ => [2#4]
  | .modinv _ _ _ => [3#4]
  | .rdbits _ _ => [4#4, 5#4]
  | .wrbits _ _ => [4#4, 5#4]

/-- The state in which the engine completes `i` when its word was issued in `s` (40_command_lifecycle.md R110). -/
def State.issued (s : State) (i : Instr) : State := s.issue (encode i)

/-- A field of width `w` at cursor `c` passes the checks of R171 and R174: a legal width, and inside BUF unless empty. -/
def State.FieldFits (s : State) (c w : Nat) : Prop := w ≤ W ∧ (0 < w → c + w ≤ 8 * s.cfg.bufBytes)

/-! ### Resets and runs -/

/-- A transaction that performs a soft reset (10_state.md R31). -/
def BusReq.softResets (t : BusReq) : Prop :=
  t.kind = .write ∧ t.size = .word ∧ t.off = RegName.ctrl.offset ∧ t.wdata.getLsbD 1 = true

/-- An event that resets the block (70_reset_and_hazards.md R240, R242). -/
def Event.Resets : Event → Prop
  | .bus t => t.softResets
  | .engine => False
  | .hardReset => True

/-- The state of an outcome that goes on. -/
def nextState? : Host.Outcome State Fault Refusal → Option State
  | .next s => some s
  | .fault _ => none
  | .refused _ => none

/-- The state after `n` steps, none if the machine stopped before. -/
def stepN : Nat → State → Option State
  | 0, s => some s
  | n + 1, s => (nextState? (step s)).bind (stepN n)

end Sys2Proof.Machine
end

