-- ==== Sys2Proof/Certificates/Slice0/Obligations.lean ====
section
/-! DEFINITION. The statements for the provers, each a sentence of a numbered rule of spec/ or derived from its sections. -/

open Sys2Proof Sys2Proof.Machine

/-! ### Encoding -/

/-- The worked encodings (R102, which the spec derives from R90 and R94): each word decodes to its command, and the command
encodes to its word. -/
def Obligations.WorkedEncodings : Prop :=
  ∀ p ∈ ([(.nop, 0x00000000#32), (.bitlen 1 2, 0x00002101#32), (.clz 3 2, 0x00002302#32),
      (.modmul 4 1 2 3, 0x00321410#32), (.modred 4 1 2 3, 0x00321411#32), (.modexp 4 1 2 3, 0x00321412#32),
      (.modinv 5 1 2, 0x00021520#32), (.rdbits 6 7, 0x00007630#32), (.wrbits 6 7, 0x00076031#32)] : List (Instr × Word)),
    decode p.2 = .command p.1 ∧ encode p.1 = p.2

/-- Decoding the word of any command gives the command back, every operand at every value (R90, R94, R99). -/
def Obligations.DecodeOfEncode : Prop := ∀ i : Instr, decode (encode i) = .command i

/-- A word that decodes to a command is that command's only word (R96, R97): no bit of a legal word is ignored. -/
def Obligations.EncodeOfDecode : Prop := ∀ (cw : Word) (i : Instr), decode cw = .command i → encode i = cw

/-- R95: a word is legal exactly when it matches exactly one row of the table of R94, and then it decodes to a command of
that row's mnemonic. Every other word is illegal: an idle block still accepts it, becomes busy, and completes it with
ILLEGAL (code 1), changing no operand register, cursor or BUF byte. -/
def Obligations.LegalIffOneRowMatches : Prop :=
  ∀ cw : Word,
    ((∃ i, decode cw = .command i) ↔ ∃! r, r ∈ opcodeTable ∧ r.Matches cw) ∧
    (∀ i, decode cw = .command i → ∃ r ∈ opcodeTable, r.Matches cw ∧ r.mnemonic = i.mnemonic) ∧
    ((∀ i, decode cw ≠ .command i) → ∀ s : State, s.busy = false →
      let u := s.hostStep (hostWrite .cmd cw)
      s.answer (hostWrite .cmd cw) = .writeOk ∧ u.busy = true ∧ ∃ t, engineStep u = .next t ∧ FailedWith cw 1#4 u t)

/-- R96, which the spec derives from R94 and R95: no two rows of R94 match the same word; a word a row matches decodes to
exactly one command, and it is of that row's mnemonic; a word no row matches is illegal. -/
def Obligations.RowsMatchDisjointWords : Prop :=
  (∀ r ∈ opcodeTable, ∀ r' ∈ opcodeTable, ∀ cw : Word, r.Matches cw → r'.Matches cw → r = r') ∧
  (∀ cw : Word,
    (∀ r ∈ opcodeTable, r.Matches cw → ∃! i, decode cw = .command i ∧ i.mnemonic = r.mnemonic) ∧
    ((∀ r ∈ opcodeTable, ¬ r.Matches cw) → ∀ i, decode cw ≠ .command i))

/-- The decoder accepts exactly the words whose fields are legal: RSV 0, an assigned opcode, every unused field 0 (R90, R93,
R95, R97). -/
def Obligations.DecodesExactlyTheLegalFields : Prop :=
  ∀ cw : Word, (∃ i, decode cw = .command i) ↔ (CommandFields.ofWord cw).legal = true

/-- Reading back the written form of a command gives its word (R99): an assembler loses no operand. -/
def Obligations.AssemblerReadsWrittenCommands : Prop := ∀ i : Instr, assemble (asmText i) = some (encode i)

/-! ### The step -/

/-- A step runs the decoded command (R113, R115): with a legal word in flight and the engine's turn next, `step` is `exec`
of the decoded command, at the state itself when no event is listed, or at the state less the event that gave the turn. The
event list is the model's (log 6). -/
def Obligations.StepRunsDecodedCommand : Prop :=
  ∀ (s : State) (f : InFlight) (i : Instr), s.inflight = some f → decode f.cw = .command i →
    (s.inputs = [] → step s = exec i s) ∧
    (∀ rest, s.inputs = .engine :: rest → step s = exec i { s with inputs := rest })

/-- R201: the completion of an illegal word ends with ILLEGAL (code 1), whatever the word: ERRCODE and ERRCMD record it
subject to the first error kept (R206). That this completion is the step when no event is listed is the model's choice (log
6). -/
def Obligations.IllegalWordCompletesWithIllegal : Prop :=
  ∀ (s : State) (f : InFlight), s.inflight = some f → (∀ i, decode f.cw ≠ .command i) →
    ∃ t, engineStep s = .next t ∧ FailedWith f.cw 1#4 s t ∧ (s.inputs = [] → step s = .next t)

/-- While BUSY = 0 the engine has no step (R113): with no event listed, the state is retained (R226). That a step happens at
all then is the model's choice (log 6). -/
def Obligations.IdleBlockRetainsState : Prop :=
  ∀ s : State, s.busy = false → s.inputs = [] → step s = .next s

/-- A step whose next event is a host transaction or a hard reset is that event's, whatever the engine holds (R10, R21). The
event list is the model's (log 6). -/
def Obligations.StepTakesListedEvent : Prop :=
  ∀ (s : State) (rest : List Event),
    (∀ t, s.inputs = .bus t :: rest → step s = .next (State.hostStep { s with inputs := rest } t)) ∧
    (s.inputs = .hardReset :: rest → step s = .next (State.hardReset { s with inputs := rest }))

/-- The block never stops: every step from every state answers a next state, since every command word has a defined outcome
(R95, R113). R113 gives an idle block no engine step: that a step with no event listed answers the same state there is the
model's choice (log 6), and so is the fault that it never raises (log 11). -/
def Obligations.StepAlwaysAnswersNext : Prop := ∀ s : State, ∃ t, step s = .next t

/-- From the bus: when an idle block's next events are `ISSUE i` and the engine's turn, the first step issues the word of
`i` with the operands its fields name, and the second is `exec i` (R101, R110, R113, R115). The event list is the model's
(log 6). -/
def Obligations.IssueThenEngineExecutes : Prop :=
  ∀ (s : State) (i : Instr) (rest : List Event), s.busy = false → s.inputs = .bus (issueReq i) :: .engine :: rest →
    ∃ t, step s = .next t ∧
      step t = exec i (State.issued { s with inputs := rest, rsp := some .writeOk } i)

/-! ### Issue and busy protection -/

/-- R111, which the spec derives from R110 and R215: issue writes BUSY to 1 and DONE to 0 and no other flag; with IE = 1
`irq` drops unless ERR = 1. Here for the CMD write of any word to an idle block. -/
def Obligations.IssueFlags : Prop :=
  ∀ (s : State) (cw : Word), s.busy = false →
    let t := s.hostStep (hostWrite .cmd cw)
    t.busy = true ∧ t.done = false ∧ t.err = s.err ∧ t.ovr = s.ovr ∧ t.errcode = s.errcode ∧ t.ie = s.ie ∧
      t.irq = (s.ie && s.err)

/-- R110: a CMD write to an idle block puts the word and the operands its fields select in flight and changes nothing else;
any word is accepted; while BUSY = 1 the write is dropped. -/
def Obligations.CmdWriteIssues : Prop :=
  ∀ (s : State) (cw : Word),
    let t := s.hostStep (hostWrite .cmd cw)
    s.answer (hostWrite .cmd cw) = .writeOk ∧
    (s.busy = false →
      t.cmd = cw ∧
      t.inflight = some ⟨cw,
        { s1 := s.reg (cw.extractLsb' 12 4).toFin
          s2 := s.reg (cw.extractLsb' 16 4).toFin
          s3 := s.reg (cw.extractLsb' 20 4).toFin
          rc := s.rcur
          wc := s.wcur }⟩ ∧
      t.done = false ∧ t.busy = true ∧
      t.err = s.err ∧ t.errcode = s.errcode ∧ t.ovr = s.ovr ∧ t.errcmd = s.errcmd ∧ t.ie = s.ie ∧
      SameRegisters s t ∧ SameCursors s t ∧ SameBuf s t) ∧
    (s.busy = true → t = { s with ovr := true, rsp := some .writeOk })

/-- R208 (and the list of R39): while BUSY = 1 a well-placed WRITE to CMD, RCUR, WCUR, an operand register or a BUF byte is
dropped: it is answered OK, sets OVR, and changes nothing else, so neither ERR, ERRCODE nor `irq`. -/
def Obligations.BusyProtectedWritesAreDropped : Prop :=
  ∀ (s : State) (t : BusReq), s.busy = true → t.kind = .write → t.wellPlaced = true →
    (∀ r, targetOf s.cfg.bufBytes t.off = .reg r → (r = .cmd ∨ r = .rcur ∨ r = .wcur ∨ ∃ i, r = .x i) →
      s.hostStep t = { s with ovr := true, rsp := some .writeOk } ∧ (s.hostStep t).irq = s.irq) ∧
    (∀ a, targetOf s.cfg.bufBytes t.off = .byte a →
      s.hostStep t = { s with ovr := true, rsp := some .writeOk } ∧ (s.hostStep t).irq = s.irq)

/-- R39: ID, CTRL, STATUS, BUFSIZE, ERRCMD, the reserved offsets and the window beyond BUF are never busy-protected: a WRITE
there never sets OVR. -/
def Obligations.UnprotectedWritesNeverSetOvr : Prop :=
  ∀ (s : State) (t : BusReq),
    (∀ r, targetOf s.cfg.bufBytes t.off = .reg r → r = .id ∨ r = .ctrl ∨ r = .status ∨ r = .bufsize ∨ r = .errcmd) →
    (∀ a, targetOf s.cfg.bufBytes t.off ≠ .byte a) → s.ovr = false → (s.hostStep t).ovr = false

/-- While BUSY = 1, no host transaction but a soft reset changes the operand registers, the cursors, the CMD readback, BUF
or the command in flight (R39, R112): so the operands read at issue are those at completion. -/
def Obligations.BusyHostStepsKeepOperands : Prop :=
  ∀ (s : State) (t : BusReq), s.busy = true → ¬ t.softResets →
    (s.hostStep t).inflight = s.inflight ∧ (s.hostStep t).cmd = s.cmd ∧
    SameRegisters s (s.hostStep t) ∧ SameCursors s (s.hostStep t) ∧ SameBuf s (s.hostStep t)

/-- A WRITE to Xi, RCUR or WCUR of an idle block stores the word, is answered OK and changes nothing else (R24, R33, R121).
-/
def Obligations.IdleRegisterWritesStore : Prop :=
  ∀ (s : State) (v : Word), s.busy = false →
    (∀ i : Reg, let t := s.hostStep (hostWrite (.x i) v)
      t.reg i = v ∧ OnlyRegister i s t ∧ t = { s with regs := t.regs, rsp := some .writeOk }) ∧
    s.hostStep (hostWrite .rcur v) = { s with rcur := v, rsp := some .writeOk } ∧
    s.hostStep (hostWrite .wcur v) = { s with wcur := v, rsp := some .writeOk }

/-! ### The aperture -/

/-- R66: a register-region access of another size than 4 or not aligned to 4 gets BUSERR with `rdata = 0` and changes no
state (but the model's record of the answer, log 7). Every other register-region access is answered OK. -/
def Obligations.RegisterRegionAccesses : Prop :=
  ∀ (s : State) (t : BusReq), t.off.toNat < 0x10000 →
    (t.size ≠ .word ∨ t.off.toNat % 4 ≠ 0 →
      s.hostStep t = { s with rsp := some { resp := .busErr, rdata := some 0#32 } }) ∧
    (t.size = .word → t.off.toNat % 4 = 0 → (s.answer t).resp = .ok)

/-- R67: a window access of any size gets BUSERR, with `rdata = 0` and no state change (but the model's record of the
answer, log 7), exactly when it is misaligned; an aligned one is answered OK, and one that starts in BUF ends in BUF and in
the aperture. -/
def Obligations.WindowAccesses : Prop :=
  ∀ (s : State) (t : BusReq), 0x10000 ≤ t.off.toNat →
    (t.off.toNat % t.size.bytes ≠ 0 →
      s.hostStep t = { s with rsp := some { resp := .busErr, rdata := some 0#32 } }) ∧
    (t.off.toNat % t.size.bytes = 0 → (s.answer t).resp = .ok ∧
      (s.cfg.Legal → t.off.toNat - 0x10000 < s.cfg.bufBytes →
        t.off.toNat - 0x10000 + t.size.bytes ≤ s.cfg.bufBytes) ∧
      t.off.toNat + t.size.bytes ≤ 0x20000)

/-- R30: ID reads 0x52534301 in every state and ignores writes. The other registers as the host reads them, at the offsets
of R25: CTRL (R31), STATUS with its fields in R32's places, CMD (R34), cursors (R33), BUFSIZE (R35), ERRCMD (R36) and X0 to
X15 (R23); BUFSIZE and ERRCMD ignore writes too (R29). -/
def Obligations.RegisterReads : Prop :=
  ∀ s : State,
    (∀ r ∈ [RegName.id, .bufsize, .errcmd], ∀ w, s.hostStep (hostWrite r w) = { s with rsp := some .writeOk }) ∧
    s.answer ⟨.read, 0x00000#17, .word, 0#32⟩ = .readOk 0x52534301#32 ∧
    s.answer ⟨.read, 0x00004#17, .word, 0#32⟩ = .readOk (if s.ie then 1#32 else 0#32) ∧
    s.answer ⟨.read, 0x00008#17, .word, 0#32⟩ =
      .readOk (0#20 ++ s.errcode ++ 0#4 ++
        BitVec.ofBool s.ovr ++ BitVec.ofBool s.err ++ BitVec.ofBool s.done ++ BitVec.ofBool s.busy) ∧
    s.answer ⟨.read, 0x0000C#17, .word, 0#32⟩ = .readOk s.cmd ∧
    s.answer ⟨.read, 0x00010#17, .word, 0#32⟩ = .readOk s.rcur ∧
    s.answer ⟨.read, 0x00014#17, .word, 0#32⟩ = .readOk s.wcur ∧
    s.answer ⟨.read, 0x00018#17, .word, 0#32⟩ = .readOk (BitVec.ofNat 32 s.cfg.bufBytes) ∧
    s.answer ⟨.read, 0x0001C#17, .word, 0#32⟩ = .readOk s.errcmd ∧
    (∀ i : Reg, s.answer ⟨.read, BitVec.ofNat 17 (0x40 + 4 * i.val), .word, 0#32⟩ = .readOk (s.reg i))

/-- STATUS as read, bit by bit (R32): BUSY, DONE, ERR, OVR, ERRCODE in 11:8, every other bit 0; and its W1C write: bits 1, 2
and 3 clear DONE, ERR and OVR, clearing ERR zeroes ERRCODE and ERRCMD, other bits are ignored, BUSY or not. -/
def Obligations.StatusReadAndClear : Prop :=
  ∀ (s : State) (w : Word),
    (∃ v, s.answer (hostRead .status) = .readOk v ∧
      v.getLsbD 0 = s.busy ∧ v.getLsbD 1 = s.done ∧ v.getLsbD 2 = s.err ∧ v.getLsbD 3 = s.ovr ∧
      v.extractLsb' 4 4 = 0#4 ∧ v.extractLsb' 8 4 = s.errcode ∧ v.extractLsb' 12 20 = 0#20) ∧
    s.hostStep (hostWrite .status w) =
      { s with
        done := s.done && !w.getLsbD 1
        err := s.err && !w.getLsbD 2
        ovr := s.ovr && !w.getLsbD 3
        errcode := if w.getLsbD 2 then 0#4 else s.errcode
        errcmd := if w.getLsbD 2 then 0#32 else s.errcmd
        rsp := some .writeOk }

/-- R31: a CTRL write with bit 1 = 0 sets IE to bit 0, changes nothing else, and takes effect while BUSY = 1; one with bit 1
= 1 performs the soft reset and leaves IE = 0 whatever was written. CTRL reads IE in bit 0 and 0 elsewhere, and IE enables
`irq`. -/
def Obligations.CtrlWrites : Prop :=
  ∀ (s : State) (w : Word),
    s.irq = (s.ie && (s.done || s.err)) ∧
    s.answer (hostRead .ctrl) = .readOk (if s.ie then 1#32 else 0#32) ∧
    (w.getLsbD 1 = false →
      s.hostStep (hostWrite .ctrl w) = { s with ie := w.getLsbD 0, rsp := some .writeOk }) ∧
    (w.getLsbD 1 = true →
      s.hostStep (hostWrite .ctrl w) = { s.softReset with rsp := some .writeOk } ∧
      (s.hostStep (hostWrite .ctrl w)).ie = false)

/-- R28: a reserved offset of the register region reads 0 and ignores writes, with OK, and never sets OVR, busy or not. The
reserved bits of CTRL (31:2) and STATUS (7:4, 31:12) read 0 and ignore writes. -/
def Obligations.ReservedOffsets : Prop :=
  (∀ (s : State) (off : BitVec 17) (w : Word),
    off.toNat % 4 = 0 → (0x20 ≤ off.toNat ∧ off.toNat < 0x40 ∨ 0x80 ≤ off.toNat ∧ off.toNat < 0x10000) →
    s.answer ⟨.read, off, .word, w⟩ = .readOk 0#32 ∧
    s.hostStep ⟨.write, off, .word, w⟩ = { s with rsp := some .writeOk }) ∧
  (∀ (s : State) (w : Word),
    s.ctrlWord &&& 0xFFFFFFFC#32 = 0#32 ∧ s.statusWord &&& 0xFFFFF0F0#32 = 0#32 ∧
    s.hostStep (hostWrite .ctrl w) = s.hostStep (hostWrite .ctrl (w &&& 0x3#32)) ∧
    s.hostStep (hostWrite .status w) = s.hostStep (hostWrite .status (w &&& 0xF0F#32)))

/-- R62: the window beyond BUF reads 0 and ignores writes, each with OK, at every size, even while BUSY = 1. -/
def Obligations.WindowBeyondBuf : Prop :=
  ∀ (s : State) (off : BitVec 17) (k : AccessSize) (w : Word),
    0x10000 + s.cfg.bufBytes ≤ off.toNat → off.toNat % k.bytes = 0 →
    s.answer ⟨.read, off, k, w⟩ = .readOk 0#32 ∧ s.hostStep ⟨.write, off, k, w⟩ = { s with rsp := some .writeOk }

/-- R64: a READ of `k` bytes of BUF returns `Σ BUF[a+j]·2^(8j)`, and a WRITE to an idle block stores byte `j` of the word at
`a + j`, leaves every other byte, and changes nothing else of the block; a 4-byte read is the two 2-byte reads together. -/
def Obligations.WindowIsLittleEndian : Prop :=
  ∀ (s : State) (a : Nat) (k : AccessSize) (w : Word), s.cfg.Legal → a < s.cfg.bufBytes → a % k.bytes = 0 →
    s.answer (hostReadBuf a k) =
      .readOk (BitVec.ofNat 32 (∑ j ∈ Finset.range k.bytes, (s.bufByte (a + j)).toNat * 2 ^ (8 * j))) ∧
    (s.busy = false →
      let t := s.hostStep (hostWriteBuf a w k)
      (∀ j < k.bytes, (t.bufByte (a + j)).toNat = w.toNat / 2 ^ (8 * j) % 256) ∧
      (∀ x, x < a ∨ a + k.bytes ≤ x → t.bufByte x = s.bufByte x) ∧
      t = { s with buf := t.buf, rsp := some .writeOk }) ∧
    s.memRead a 4 = s.memRead (a + 2) 2 * 2 ^ 16 + s.memRead a 2

/-- R71: no READ changes state (but the model's record of the answer), and reading again gives the same answer; every WRITE
but a CMD write is idempotent. -/
def Obligations.ReadsHaveNoEffect : Prop :=
  ∀ (s : State) (t : BusReq),
    (t.kind = .read → s.hostStep t = { s with rsp := some (s.answer t) } ∧ (s.hostStep t).answer t = s.answer t) ∧
    (t.kind = .write → t.off ≠ RegName.cmd.offset → (s.hostStep t).hostStep t = s.hostStep t)

/-- The aperture is 0x20000 bytes at BASE, aligned to 0x20000 (R9, R25): every offset has a host address in it, no other
address has an offset. BASE is a free value (log 15); this holds for every value of it. -/
def Obligations.ApertureAddresses : Prop :=
  (∀ off : BitVec 17, apertureOffset? (hostAddress off) = some off) ∧
  (∀ (addr : Nat) (off : BitVec 17), apertureOffset? addr = some off → hostAddress off = addr) ∧
  hostAddress 0#17 % 0x20000 = 0

/-! ### Resets and the interrupt -/

/-- R40, R244: after a hard reset (the state `reset`, or a hard-reset event in any state) the block is idle with IE = 0,
every flag 0, no command in flight, every operand register and cursor 0, CMD, ERRCODE and ERRCMD 0, and `irq` 0. -/
def Obligations.HardResetValues : Prop :=
  ∀ s t : State, t = State.reset ∨ t = s.hardReset →
    (∀ r, t.reg r = 0#32) ∧ t.rcur = 0#32 ∧ t.wcur = 0#32 ∧ t.cmd = 0#32 ∧ t.ie = false ∧ t.busy = false ∧
    t.done = false ∧ t.err = false ∧ t.ovr = false ∧ t.errcode = 0#4 ∧ t.errcmd = 0#32 ∧ t.inflight = none ∧
    t.irq = false

/-- R242 (and R243): a CTRL write with bit 1 = 1 is accepted whatever BUSY, sets every register and flag to 0, drops the
command in flight with no commit, sets `irq` to 0 and leaves BUF, and the constants ID and BUFSIZE, unchanged. -/
def Obligations.SoftResetValues : Prop :=
  ∀ (s : State) (w : Word), w.getLsbD 1 = true →
    let t := s.hostStep (hostWrite .ctrl w)
    s.answer (hostWrite .ctrl w) = .writeOk ∧
    t.answer (hostRead .id) = .readOk 0x52534301#32 ∧ t.answer (hostRead .bufsize) = s.answer (hostRead .bufsize) ∧
    (∀ r, t.reg r = 0#32) ∧ t.rcur = 0#32 ∧ t.wcur = 0#32 ∧ t.cmd = 0#32 ∧ t.ie = false ∧ t.busy = false ∧
    t.done = false ∧ t.err = false ∧ t.ovr = false ∧ t.errcode = 0#4 ∧ t.errcmd = 0#32 ∧ t.inflight = none ∧
    t.irq = false ∧ SameBuf s t

/-- R215: `irq = IE ∧ (DONE ∨ ERR)` in every state. Writing 1 to STATUS bits 1 and 2 clears DONE and ERR and with them
`irq`; so does each reset; an issue clears DONE. -/
def Obligations.InterruptOutput : Prop :=
  ∀ s : State, (s.irq = true ↔ s.ie = true ∧ (s.done = true ∨ s.err = true)) ∧
    (∀ w : Word, (w.getLsbD 1 = true → (s.hostStep (hostWrite .status w)).done = false) ∧
      (w.getLsbD 2 = true → (s.hostStep (hostWrite .status w)).err = false)) ∧
    (s.hostStep (hostWrite .status 0x6#32)).irq = false ∧
    s.softReset.irq = false ∧ s.hardReset.irq = false ∧ ∀ cw, (s.issue cw).done = false

/-! ### Results of the commands -/

/-- R120: NOP is the single word 0 (any other word of opcode 0 is illegal); it completes, sets DONE, clears BUSY and changes
no operand register, cursor or BUF byte. -/
def Obligations.NopCompletes : Prop :=
  encode .nop = 0#32 ∧
  (∀ cw : Word, cw.extractLsb' 0 8 = 0#8 → cw ≠ 0#32 → ∀ i, decode cw ≠ .command i) ∧
  ∀ s : State, ∃ t, exec .nop (s.issued .nop) = .next t ∧ CompletedOk (s.issued .nop) t ∧
    SameRegisters s t ∧ SameCursors s t ∧ SameBuf s t

/-- R130: BITLEN writes 0 for 0 and otherwise `floor(log2 v) + 1`, of the value read before the write. -/
def Obligations.BitlenResult : Prop :=
  ∀ (s : State) (rd rs1 : Reg),
    ∃ t, exec (.bitlen rd rs1) (s.issued (.bitlen rd rs1)) = .next t ∧ CompletedOk (s.issued (.bitlen rd rs1)) t ∧
      (t.reg rd).toNat = (if s.reg rs1 = 0#32 then 0 else Nat.log2 (s.reg rs1).toNat + 1) ∧
      OnlyRegister rd s t ∧ SameCursors s t ∧ SameBuf s t

/-- R132: CLZ writes `32 − bitlength(v)`: 32 for 0 and otherwise `31 − floor(log2 v)`. -/
def Obligations.ClzResult : Prop :=
  ∀ (s : State) (rd rs1 : Reg),
    ∃ t, exec (.clz rd rs1) (s.issued (.clz rd rs1)) = .next t ∧ CompletedOk (s.issued (.clz rd rs1)) t ∧
      (t.reg rd).toNat = (if s.reg rs1 = 0#32 then 32 else 31 - Nat.log2 (s.reg rs1).toNat) ∧
      OnlyRegister rd s t ∧ SameCursors s t ∧ SameBuf s t

/-- R140, R142: MODMUL writes `(a·b) mod n` of the exact product, for every `a`, `b` and every `n ≠ 0`, and completes with
MODZERO (code 2) for `n = 0`. -/
def Obligations.ModmulResult : Prop :=
  ∀ (s : State) (rd rs1 rs2 rs3 : Reg),
    (s.reg rs3 ≠ 0#32 → ∃ t, exec (.modmul rd rs1 rs2 rs3) (s.issued (.modmul rd rs1 rs2 rs3)) = .next t ∧
      CompletedOk (s.issued (.modmul rd rs1 rs2 rs3)) t ∧
      (t.reg rd).toNat = (s.reg rs1).toNat * (s.reg rs2).toNat % (s.reg rs3).toNat ∧
      OnlyRegister rd s t ∧ SameCursors s t ∧ SameBuf s t) ∧
    (s.reg rs3 = 0#32 → ∃ t, exec (.modmul rd rs1 rs2 rs3) (s.issued (.modmul rd rs1 rs2 rs3)) = .next t ∧
      FailedWith (encode (.modmul rd rs1 rs2 rs3)) 2#4 (s.issued (.modmul rd rs1 rs2 rs3)) t)

/-- R143: MODRED writes `{hi, lo} mod n` of the 64-bit value, for every `hi`, `lo` and every `n ≠ 0`, and completes with
MODZERO (code 2) for `n = 0`. -/
def Obligations.ModredResult : Prop :=
  ∀ (s : State) (rd rs1 rs2 rs3 : Reg),
    (s.reg rs3 ≠ 0#32 → ∃ t, exec (.modred rd rs1 rs2 rs3) (s.issued (.modred rd rs1 rs2 rs3)) = .next t ∧
      CompletedOk (s.issued (.modred rd rs1 rs2 rs3)) t ∧
      (t.reg rd).toNat = (s.reg rs1 ++ s.reg rs2).toNat % (s.reg rs3).toNat ∧
      OnlyRegister rd s t ∧ SameCursors s t ∧ SameBuf s t) ∧
    (s.reg rs3 = 0#32 → ∃ t, exec (.modred rd rs1 rs2 rs3) (s.issued (.modred rd rs1 rs2 rs3)) = .next t ∧
      FailedWith (encode (.modred rd rs1 rs2 rs3)) 2#4 (s.issued (.modred rd rs1 rs2 rs3)) t)

/-- R144, which the spec derives from R140 and R143: MODMUL of `a`, `b` and MODRED of the two halves of `a·b` write the same
value. -/
def Obligations.ModmulAgreesWithModred : Prop :=
  ∀ (s t : State) (rd rs1 rs2 rs3 rd' hi lo n : Reg), s.reg rs3 ≠ 0#32 → t.reg n = s.reg rs3 →
    (t.reg hi).toNat = (s.reg rs1).toNat * (s.reg rs2).toNat / 2 ^ 32 →
    (t.reg lo).toNat = (s.reg rs1).toNat * (s.reg rs2).toNat % 2 ^ 32 →
    ∃ s' t', exec (.modmul rd rs1 rs2 rs3) (s.issued (.modmul rd rs1 rs2 rs3)) = .next s' ∧
      exec (.modred rd' hi lo n) (t.issued (.modred rd' hi lo n)) = .next t' ∧ s'.reg rd = t'.reg rd'

/-- R146, R147: MODEXP writes exactly `a^b mod n` for every `a`, `b` and every `n ≠ 0`, with `0^0 = 1`, so `1 mod n` for `b
= 0`; for `n = 0` it completes with MODZERO (code 2). -/
def Obligations.ModexpResult : Prop :=
  ∀ (s : State) (rd rs1 rs2 rs3 : Reg),
    (s.reg rs3 ≠ 0#32 → ∃ t, exec (.modexp rd rs1 rs2 rs3) (s.issued (.modexp rd rs1 rs2 rs3)) = .next t ∧
      CompletedOk (s.issued (.modexp rd rs1 rs2 rs3)) t ∧
      (t.reg rd).toNat = (s.reg rs1).toNat ^ (s.reg rs2).toNat % (s.reg rs3).toNat ∧
      OnlyRegister rd s t ∧ SameCursors s t ∧ SameBuf s t) ∧
    (s.reg rs3 = 0#32 → ∃ t, exec (.modexp rd rs1 rs2 rs3) (s.issued (.modexp rd rs1 rs2 rs3)) = .next t ∧
      FailedWith (encode (.modexp rd rs1 rs2 rs3)) 2#4 (s.issued (.modexp rd rs1 rs2 rs3)) t)

/-- R149, which the spec derives from R146: for `n = p·q` with distinct primes, `e·d ≡ 1 mod (p−1)(q−1)` and `a < n`, MODEXP
with `(a, e, n)` and then MODEXP with `(result, d, n)` returns `a`, whatever the registers, so long as the first result
overwrites neither `d` nor `n`. -/
def Obligations.RsaLaw : Prop :=
  ∀ (s : State) (p q : Nat) (ra re rx rn rt ru : Reg), p.Prime → q.Prime → p ≠ q → rt ≠ rx → rt ≠ rn →
    (s.reg rn).toNat = p * q → (s.reg ra).toNat < p * q →
    (s.reg re).toNat * (s.reg rx).toNat ≡ 1 [MOD (p - 1) * (q - 1)] →
    ∃ t u, exec (.modexp rt ra re rn) (s.issued (.modexp rt ra re rn)) = .next t ∧
      exec (.modexp ru rt rx rn) (t.issued (.modexp ru rt rx rn)) = .next u ∧ u.reg ru = s.reg ra

/-- R160: MODINV with `f > 1` writes the unique `x < f` with `(x·d) mod f = 1` where `gcd(d, f) = 1`, and 0 otherwise; with
`f ≤ 1` it completes with INVMOD (code 3). -/
def Obligations.ModinvResult : Prop :=
  ∀ (s : State) (rd rs1 rs2 : Reg),
    (1 < (s.reg rs2).toNat → ∃ t, exec (.modinv rd rs1 rs2) (s.issued (.modinv rd rs1 rs2)) = .next t ∧
      CompletedOk (s.issued (.modinv rd rs1 rs2)) t ∧
      (Nat.gcd (s.reg rs1).toNat (s.reg rs2).toNat = 1 →
        (t.reg rd).toNat < (s.reg rs2).toNat ∧ (t.reg rd).toNat * (s.reg rs1).toNat % (s.reg rs2).toNat = 1 ∧
        ∀ x < (s.reg rs2).toNat, x * (s.reg rs1).toNat % (s.reg rs2).toNat = 1 → x = (t.reg rd).toNat) ∧
      (Nat.gcd (s.reg rs1).toNat (s.reg rs2).toNat ≠ 1 → t.reg rd = 0#32) ∧
      OnlyRegister rd s t ∧ SameCursors s t ∧ SameBuf s t) ∧
    ((s.reg rs2).toNat ≤ 1 → ∃ t, exec (.modinv rd rs1 rs2) (s.issued (.modinv rd rs1 rs2)) = .next t ∧
      FailedWith (encode (.modinv rd rs1 rs2)) 3#4 (s.issued (.modinv rd rs1 rs2)) t)

/-- R162, which the spec derives from R160: for `f ≥ 2`, MODINV returns the sentinel 0 exactly when `gcd(d, f) ≠ 1`. -/
def Obligations.ModinvSentinel : Prop :=
  ∀ (s : State) (rd rs1 rs2 : Reg), 2 ≤ (s.reg rs2).toNat →
    ∃ t, exec (.modinv rd rs1 rs2) (s.issued (.modinv rd rs1 rs2)) = .next t ∧
      (t.reg rd = 0#32 ↔ Nat.gcd (s.reg rs1).toNat (s.reg rs2).toNat ≠ 1)

/-- R171: RDBITS of a field that fits writes its bits, the first bit read as bit 0 and zeros at and above the width, and
moves RCUR to `c + w`; BUF and WCUR stay. A width above 32 completes with WIDTH (code 4), a field past the end of BUF with
BOUNDS (code 5). -/
def Obligations.RdbitsResult : Prop :=
  ∀ (s : State) (rd rs1 : Reg), s.cfg.Legal →
    ∃ t, exec (.rdbits rd rs1) (s.issued (.rdbits rd rs1)) = .next t ∧
      (s.FieldFits s.rcur.toNat (s.reg rs1).toNat →
        CompletedOk (s.issued (.rdbits rd rs1)) t ∧
        (∀ k < 32, (t.reg rd).getLsbD k = (decide (k < (s.reg rs1).toNat) && s.bufBit (s.rcur.toNat + k))) ∧
        t.rcur.toNat = s.rcur.toNat + (s.reg rs1).toNat ∧ t.wcur = s.wcur ∧ OnlyRegister rd s t ∧ SameBuf s t) ∧
      (32 < (s.reg rs1).toNat → FailedWith (encode (.rdbits rd rs1)) 4#4 (s.issued (.rdbits rd rs1)) t) ∧
      (0 < (s.reg rs1).toNat → (s.reg rs1).toNat ≤ 32 → 8 * s.cfg.bufBytes < s.rcur.toNat + (s.reg rs1).toNat →
        FailedWith (encode (.rdbits rd rs1)) 5#4 (s.issued (.rdbits rd rs1)) t)

/-- R174: WRBITS of a field that fits ORs bit `k` of the value into bit `c + k` for `k < w`, changes no other bit of BUF,
and moves WCUR to `c + w`; no operand register and not RCUR changes. A width above 32 completes with WIDTH (code 4), a field
past the end of BUF with BOUNDS (code 5). -/
def Obligations.WrbitsResult : Prop :=
  ∀ (s : State) (rs1 rs2 : Reg), s.cfg.Legal →
    ∃ t, exec (.wrbits rs1 rs2) (s.issued (.wrbits rs1 rs2)) = .next t ∧
      (s.FieldFits s.wcur.toNat (s.reg rs2).toNat →
        CompletedOk (s.issued (.wrbits rs1 rs2)) t ∧
        (∀ k < (s.reg rs2).toNat,
          t.bufBit (s.wcur.toNat + k) = (s.bufBit (s.wcur.toNat + k) || (s.reg rs1).getLsbD k)) ∧
        (∀ p, p < s.wcur.toNat ∨ s.wcur.toNat + (s.reg rs2).toNat ≤ p → t.bufBit p = s.bufBit p) ∧
        t.wcur.toNat = s.wcur.toNat + (s.reg rs2).toNat ∧ t.rcur = s.rcur ∧ SameRegisters s t) ∧
      (32 < (s.reg rs2).toNat → FailedWith (encode (.wrbits rs1 rs2)) 4#4 (s.issued (.wrbits rs1 rs2)) t) ∧
      (0 < (s.reg rs2).toNat → (s.reg rs2).toNat ≤ 32 → 8 * s.cfg.bufBytes < s.wcur.toNat + (s.reg rs2).toNat →
        FailedWith (encode (.wrbits rs1 rs2)) 5#4 (s.issued (.wrbits rs1 rs2)) t)

/-- R65, which the spec derives from R63, R64 and R171: for `a + 4 ≤ BUF_BYTES`, RDBITS of width 32 at cursor `8·a` returns
`MemRead(a, 4)`, and of width 8 returns `MemRead(a, 1)`. -/
def Obligations.HostWordsAgreeWithFields : Prop :=
  ∀ (s : State) (rd rs1 : Reg) (a : Nat), s.cfg.Legal → a + 4 ≤ s.cfg.bufBytes → s.rcur.toNat = 8 * a →
    ∃ t, exec (.rdbits rd rs1) (s.issued (.rdbits rd rs1)) = .next t ∧
      (s.reg rs1 = 32#32 → (t.reg rd).toNat = s.memRead a 4) ∧
      (s.reg rs1 = 8#32 → (t.reg rd).toNat = s.memRead a 1)

/-- One `HW X1, v`, `HW X2, w`, `EXEC WRBITS X1, X2` of the packing loop (95_test_vectors.md P2), as a change of state. -/
def Sys2Proof.Machine.packOne (s : State) (vw : Word × Word) : Option State :=
  nextState? (exec (.wrbits 1 2) (((s.setReg 1 vw.1).setReg 2 vw.2).issued (.wrbits 1 2)))

/-- The packing loop over a list of values and widths. -/
def Sys2Proof.Machine.packAll : State → List (Word × Word) → Option State
  | s, [] => some s
  | s, vw :: rest => (packOne s vw).bind fun t => packAll t rest

/-- The unpacking loop over a list of widths: `HW X2, w`, `EXEC RDBITS X3, X2`, `HR X3`. -/
def Sys2Proof.Machine.unpackAll : State → List Word → Option (State × List Word)
  | s, [] => some (s, [])
  | s, w :: rest =>
    (nextState? (exec (.rdbits 3 2) ((s.setReg 2 w).issued (.rdbits 3 2)))).bind fun t =>
      (unpackAll t rest).map fun r => (r.1, t.reg 3 :: r.2)

/-- R176, which the spec derives from R171, R174 and R175: over a zeroed region, with both cursors at `c0`, packing any list
of fields of widths at most 32 that fit in BUF and then unpacking with the same widths returns each value modulo `2^w` (the
value itself where it is below `2^w`), both cursors end at `c0 + Σ w`, and no error is recorded. -/
def Obligations.PackingRoundTrip : Prop :=
  ∀ (s : State) (fields : List (Word × Word)), s.cfg.Legal → s.wcur = s.rcur →
    (∀ vw ∈ fields, vw.2.toNat ≤ 32) →
    (0 < (fields.map fun vw => vw.2.toNat).sum →
      s.rcur.toNat + (fields.map fun vw => vw.2.toNat).sum ≤ 8 * s.cfg.bufBytes) →
    (∀ p, s.rcur.toNat ≤ p → p < s.rcur.toNat + (fields.map fun vw => vw.2.toNat).sum → s.bufBit p = false) →
    ∃ t u vs, packAll s fields = some t ∧ unpackAll t (fields.map Prod.snd) = some (u, vs) ∧
      vs.map BitVec.toNat = fields.map (fun vw => vw.1.toNat % 2 ^ vw.2.toNat) ∧
      u.rcur.toNat = s.rcur.toNat + (fields.map fun vw => vw.2.toNat).sum ∧ u.wcur = u.rcur ∧ u.err = s.err

/-! ### Errors -/

/-- R202: MODMUL, MODRED and MODEXP with modulus 0 complete with MODZERO (code 2) and write nothing. -/
def Obligations.ZeroModulusFails : Prop :=
  ∀ (s : State) (f : InFlight) (rd rs1 rs2 rs3 : Reg), s.inflight = some f → f.ops.s3 = 0#32 →
    ∀ i ∈ [Instr.modmul rd rs1 rs2 rs3, .modred rd rs1 rs2 rs3, .modexp rd rs1 rs2 rs3],
      ∃ t, exec i s = .next t ∧ FailedWith f.cw 2#4 s t

/-- R203: MODINV with `f ≤ 1` completes with INVMOD (code 3) and writes nothing. -/
def Obligations.SmallInverseModulusFails : Prop :=
  ∀ (s : State) (f : InFlight) (rd rs1 rs2 : Reg), s.inflight = some f → f.ops.s2.toNat ≤ 1 →
    ∃ t, exec (.modinv rd rs1 rs2) s = .next t ∧ FailedWith f.cw 3#4 s t

/-- R204, R210: RDBITS and WRBITS with a width above 32 complete with WIDTH (code 4), whatever the cursor. -/
def Obligations.WideFieldFails : Prop :=
  ∀ (s : State) (f : InFlight) (rd rs1 rs2 : Reg), s.inflight = some f →
    (32 < f.ops.s1.toNat → ∃ t, exec (.rdbits rd rs1) s = .next t ∧ FailedWith f.cw 4#4 s t) ∧
    (32 < f.ops.s2.toNat → ∃ t, exec (.wrbits rs1 rs2) s = .next t ∧ FailedWith f.cw 4#4 s t)

/-- R172: for a width in [1, 32], a field completes with BOUNDS (code 5) and changes nothing exactly when `c + w`, computed
exactly, exceeds `8 · BUF_BYTES`; a width of 0 never does. -/
def Obligations.FieldPastBufFails : Prop :=
  ∀ (s : State) (f : InFlight) (rd rs1 rs2 : Reg), s.inflight = some f →
    (f.ops.s1.toNat ≤ 32 → ∃ t, exec (.rdbits rd rs1) s = .next t ∧
      (0 < f.ops.s1.toNat ∧ 8 * s.cfg.bufBytes < f.ops.rc.toNat + f.ops.s1.toNat → FailedWith f.cw 5#4 s t) ∧
      (¬ (0 < f.ops.s1.toNat ∧ 8 * s.cfg.bufBytes < f.ops.rc.toNat + f.ops.s1.toNat) → CompletedOk s t)) ∧
    (f.ops.s2.toNat ≤ 32 → ∃ t, exec (.wrbits rs1 rs2) s = .next t ∧
      (0 < f.ops.s2.toNat ∧ 8 * s.cfg.bufBytes < f.ops.wc.toNat + f.ops.s2.toNat → FailedWith f.cw 5#4 s t) ∧
      (¬ (0 < f.ops.s2.toNat ∧ 8 * s.cfg.bufBytes < f.ops.wc.toNat + f.ops.s2.toNat) → CompletedOk s t))

/-- R209, which the spec derives from R200 to R204: a legal command either completes without error or fails, precisely, with
one of the codes its row of R209 allows. -/
def Obligations.EachCommandsErrors : Prop :=
  ∀ (i : Instr) (s t : State), exec i s = .next t →
    CompletedOk s t ∨ ∃ f, s.inflight = some f ∧ ∃ code ∈ possibleErrors i, FailedWith f.cw code s t

/-! ### Rules over all commands -/

/-- R24: a command writes at most one operand register, the one its `rd` names, and only when it completes without error;
NOP and WRBITS write none. -/
def Obligations.OnlyDestinationChanges : Prop :=
  ∀ (i : Instr) (s t : State), exec i s = .next t →
    (∀ r, destination i ≠ some r → t.reg r = s.reg r) ∧
    (¬ SameRegisters s t → CompletedOk s t)

/-- R33: RDBITS moves RCUR, WRBITS moves WCUR, and no other command changes either cursor. -/
def Obligations.OnlyBitCommandsMoveCursors : Prop :=
  ∀ (i : Instr) (s t : State), exec i s = .next t →
    (t.rcur ≠ s.rcur → ∃ rd rs1, i = .rdbits rd rs1) ∧ (t.wcur ≠ s.wcur → ∃ rs1 rs2, i = .wrbits rs1 rs2)

/-- R60, R69: no command but WRBITS changes BUF, and WRBITS changes no byte outside the bytes of its field at the cursor
captured at issue. -/
def Obligations.OnlyWrbitsChangesBuf : Prop :=
  ∀ (i : Instr) (s t : State) (f : InFlight), exec i s = .next t → s.inflight = some f →
    ((∀ rs1 rs2, i ≠ .wrbits rs1 rs2) → SameBuf s t) ∧
    (∀ a, (∀ k < f.ops.s2.toNat, (f.ops.wc.toNat + k) / 8 ≠ a) → t.bufByte a = s.bufByte a)

/-- R38: a command writes flags only through completion: DONE always, ERR and ERRCODE on error; CTRL.IE, OVR and the CMD
readback stay, and no command is left in flight. -/
def Obligations.CommandsWriteOnlyCompletionFlags : Prop :=
  ∀ (i : Instr) (s t : State), exec i s = .next t →
    SameSurroundings s t ∧ t.done = true ∧ t.busy = false ∧
    (t.err = s.err ∧ t.errcode = s.errcode ∧ t.errcmd = s.errcmd ∨ t.err = true)

/-- R117, which the spec derives from R113 and R115: a command's result depends only on the command in flight and BUF (and
what it leaves alone): two states that agree on those, and differ in CTRL.IE, the STATUS flags, ERRCODE, ERRCMD, the CMD
readback or what the environment does next, leave the same operand registers, cursors and BUF. -/
def Obligations.ResultsIndependentOfFlags : Prop :=
  ∀ (i : Instr) (s s' t t' : State), s'.inflight = s.inflight → s'.regs = s.regs → s'.rcur = s.rcur →
    s'.wcur = s.wcur → s'.cfg = s.cfg → SameBuf s s' → exec i s = .next t → exec i s' = .next t' →
    SameRegisters t t' ∧ SameCursors t t' ∧ SameBuf t t'

/-! ### Invariants and liveness -/

/-- The invariant holds at reset. Its clauses on the form of the BUF list (log 4) and on BUF_BYTES, which `State.reset` has
at R9's default 4096 (log 3), are the model's choice; the others rest on R40. -/
def Obligations.InvariantAtReset : Prop := State.reset.Inv

/-- Every step from a state that meets the invariant, whatever its events, gives one that meets it: only bytes of BUF are
held (R60), BUF_BYTES stays one of R9's values, ERRCODE and ERRCMD are 0 while ERR = 0 (R32) and ERRCODE is a code of R200
otherwise, and, while a command is in flight, its word is the CMD readback (R41), its operands are the current registers
(R112) and DONE is 0 (R32). The clause that the BUF list has its canonical form is the model's choice (log 4), as are that
the state carries BUF_BYTES (log 3) and the event list (log 6). -/
def Obligations.StepKeepsInvariant : Prop :=
  ∀ s t : State, s.Inv → step s = .next t → t.Inv

/-- R35: BUFSIZE reads BUF_BYTES, and no step, a reset among them, changes it. -/
def Obligations.StepKeepsConfiguration : Prop :=
  ∀ s : State, s.answer (hostRead .bufsize) = .readOk (BitVec.ofNat 32 s.cfg.bufBytes) ∧
    ∀ t, step s = .next t → t.cfg = s.cfg ∧ t.answer (hostRead .bufsize) = s.answer (hostRead .bufsize)

/-- R262: if BUSY = 1 and no reset occurs among the listed events, the completion happens: after at most one step more than
there are events, DONE = 1 and BUSY = 0. The bound is the model's: the engine has its turn when no event is listed (log 6).
-/
def Obligations.BusyBlockCompletes : Prop :=
  ∀ s : State, s.busy = true → (∀ e ∈ s.inputs, ¬ e.Resets) →
    ∃ n ≤ s.inputs.length + 1, ∃ t, stepN n s = some t ∧ t.done = true ∧ t.busy = false
end

