-- ==== Sys2Proof/Laws/State.lean ====
section
/-! SUPPORT. The state's fields after each update, one lemma per field, true by unfolding, so that later proofs unfold no
record update. -/

namespace Sys2Proof.Machine

variable (s : State)

/-! ### x[i] <- v -/

@[simp] theorem State.setReg_regs (i : Reg) (v : Word) : (s.setReg i v).regs = s.regs.set i.val v := rfl
@[simp] theorem State.setReg_rcur (i : Reg) (v : Word) : (s.setReg i v).rcur = s.rcur := rfl
@[simp] theorem State.setReg_wcur (i : Reg) (v : Word) : (s.setReg i v).wcur = s.wcur := rfl
@[simp] theorem State.setReg_cmd (i : Reg) (v : Word) : (s.setReg i v).cmd = s.cmd := rfl
@[simp] theorem State.setReg_ie (i : Reg) (v : Word) : (s.setReg i v).ie = s.ie := rfl
@[simp] theorem State.setReg_done (i : Reg) (v : Word) : (s.setReg i v).done = s.done := rfl
@[simp] theorem State.setReg_err (i : Reg) (v : Word) : (s.setReg i v).err = s.err := rfl
@[simp] theorem State.setReg_ovr (i : Reg) (v : Word) : (s.setReg i v).ovr = s.ovr := rfl
@[simp] theorem State.setReg_errcode (i : Reg) (v : Word) : (s.setReg i v).errcode = s.errcode := rfl
@[simp] theorem State.setReg_errcmd (i : Reg) (v : Word) : (s.setReg i v).errcmd = s.errcmd := rfl
@[simp] theorem State.setReg_inflight (i : Reg) (v : Word) : (s.setReg i v).inflight = s.inflight := rfl
@[simp] theorem State.setReg_buf (i : Reg) (v : Word) : (s.setReg i v).buf = s.buf := rfl
@[simp] theorem State.setReg_cfg (i : Reg) (v : Word) : (s.setReg i v).cfg = s.cfg := rfl
@[simp] theorem State.setReg_epoch (i : Reg) (v : Word) : (s.setReg i v).epoch = s.epoch := rfl
@[simp] theorem State.setReg_inputs (i : Reg) (v : Word) : (s.setReg i v).inputs = s.inputs := rfl
@[simp] theorem State.setReg_rsp (i : Reg) (v : Word) : (s.setReg i v).rsp = s.rsp := rfl

/-! ### BUF[a] <- b -/

@[simp] theorem State.setByte_regs (a : Nat) (b : Byte) : (s.setByte a b).regs = s.regs := rfl
@[simp] theorem State.setByte_rcur (a : Nat) (b : Byte) : (s.setByte a b).rcur = s.rcur := rfl
@[simp] theorem State.setByte_wcur (a : Nat) (b : Byte) : (s.setByte a b).wcur = s.wcur := rfl
@[simp] theorem State.setByte_cmd (a : Nat) (b : Byte) : (s.setByte a b).cmd = s.cmd := rfl
@[simp] theorem State.setByte_ie (a : Nat) (b : Byte) : (s.setByte a b).ie = s.ie := rfl
@[simp] theorem State.setByte_done (a : Nat) (b : Byte) : (s.setByte a b).done = s.done := rfl
@[simp] theorem State.setByte_err (a : Nat) (b : Byte) : (s.setByte a b).err = s.err := rfl
@[simp] theorem State.setByte_ovr (a : Nat) (b : Byte) : (s.setByte a b).ovr = s.ovr := rfl
@[simp] theorem State.setByte_errcode (a : Nat) (b : Byte) : (s.setByte a b).errcode = s.errcode := rfl
@[simp] theorem State.setByte_errcmd (a : Nat) (b : Byte) : (s.setByte a b).errcmd = s.errcmd := rfl
@[simp] theorem State.setByte_inflight (a : Nat) (b : Byte) : (s.setByte a b).inflight = s.inflight := rfl
@[simp] theorem State.setByte_buf (a : Nat) (b : Byte) : (s.setByte a b).buf = Memory.write s.buf a b := rfl
@[simp] theorem State.setByte_cfg (a : Nat) (b : Byte) : (s.setByte a b).cfg = s.cfg := rfl
@[simp] theorem State.setByte_epoch (a : Nat) (b : Byte) : (s.setByte a b).epoch = s.epoch := rfl
@[simp] theorem State.setByte_inputs (a : Nat) (b : Byte) : (s.setByte a b).inputs = s.inputs := rfl
@[simp] theorem State.setByte_rsp (a : Nat) (b : Byte) : (s.setByte a b).rsp = s.rsp := rfl

/-! ### Setting one bit of BUF -/

@[simp] theorem State.setBit_regs (p : Nat) : (s.setBit p).regs = s.regs := rfl
@[simp] theorem State.setBit_rcur (p : Nat) : (s.setBit p).rcur = s.rcur := rfl
@[simp] theorem State.setBit_wcur (p : Nat) : (s.setBit p).wcur = s.wcur := rfl
@[simp] theorem State.setBit_cmd (p : Nat) : (s.setBit p).cmd = s.cmd := rfl
@[simp] theorem State.setBit_ie (p : Nat) : (s.setBit p).ie = s.ie := rfl
@[simp] theorem State.setBit_done (p : Nat) : (s.setBit p).done = s.done := rfl
@[simp] theorem State.setBit_err (p : Nat) : (s.setBit p).err = s.err := rfl
@[simp] theorem State.setBit_ovr (p : Nat) : (s.setBit p).ovr = s.ovr := rfl
@[simp] theorem State.setBit_errcode (p : Nat) : (s.setBit p).errcode = s.errcode := rfl
@[simp] theorem State.setBit_errcmd (p : Nat) : (s.setBit p).errcmd = s.errcmd := rfl
@[simp] theorem State.setBit_inflight (p : Nat) : (s.setBit p).inflight = s.inflight := rfl
@[simp] theorem State.setBit_buf (p : Nat) : (s.setBit p).buf = Memory.write s.buf (p / 8) (s.bufByte (p / 8) ||| BitVec.twoPow 8 (p % 8)) := rfl
@[simp] theorem State.setBit_cfg (p : Nat) : (s.setBit p).cfg = s.cfg := rfl
@[simp] theorem State.setBit_epoch (p : Nat) : (s.setBit p).epoch = s.epoch := rfl
@[simp] theorem State.setBit_inputs (p : Nat) : (s.setBit p).inputs = s.inputs := rfl
@[simp] theorem State.setBit_rsp (p : Nat) : (s.setBit p).rsp = s.rsp := rfl

/-! ### Issue -/

@[simp] theorem State.issue_regs (cw : Word) : (s.issue cw).regs = s.regs := rfl
@[simp] theorem State.issue_rcur (cw : Word) : (s.issue cw).rcur = s.rcur := rfl
@[simp] theorem State.issue_wcur (cw : Word) : (s.issue cw).wcur = s.wcur := rfl
@[simp] theorem State.issue_cmd (cw : Word) : (s.issue cw).cmd = cw := rfl
@[simp] theorem State.issue_ie (cw : Word) : (s.issue cw).ie = s.ie := rfl
@[simp] theorem State.issue_done (cw : Word) : (s.issue cw).done = false := rfl
@[simp] theorem State.issue_err (cw : Word) : (s.issue cw).err = s.err := rfl
@[simp] theorem State.issue_ovr (cw : Word) : (s.issue cw).ovr = s.ovr := rfl
@[simp] theorem State.issue_errcode (cw : Word) : (s.issue cw).errcode = s.errcode := rfl
@[simp] theorem State.issue_errcmd (cw : Word) : (s.issue cw).errcmd = s.errcmd := rfl
@[simp] theorem State.issue_inflight (cw : Word) : (s.issue cw).inflight = some ⟨cw, s.captureOps cw⟩ := rfl
@[simp] theorem State.issue_buf (cw : Word) : (s.issue cw).buf = s.buf := rfl
@[simp] theorem State.issue_cfg (cw : Word) : (s.issue cw).cfg = s.cfg := rfl
@[simp] theorem State.issue_epoch (cw : Word) : (s.issue cw).epoch = s.epoch := rfl
@[simp] theorem State.issue_inputs (cw : Word) : (s.issue cw).inputs = s.inputs := rfl
@[simp] theorem State.issue_rsp (cw : Word) : (s.issue cw).rsp = s.rsp := rfl

/-! ### Commit -/

@[simp] theorem State.commit_regs (u : Update) : (s.commit u).regs = applyReg s.regs u.reg := rfl
@[simp] theorem State.commit_rcur (u : Update) : (s.commit u).rcur = u.rcur.getD s.rcur := rfl
@[simp] theorem State.commit_wcur (u : Update) : (s.commit u).wcur = u.wcur.getD s.wcur := rfl
@[simp] theorem State.commit_cmd (u : Update) : (s.commit u).cmd = s.cmd := rfl
@[simp] theorem State.commit_ie (u : Update) : (s.commit u).ie = s.ie := rfl
@[simp] theorem State.commit_done (u : Update) : (s.commit u).done = true := rfl
@[simp] theorem State.commit_err (u : Update) : (s.commit u).err = s.err := rfl
@[simp] theorem State.commit_ovr (u : Update) : (s.commit u).ovr = s.ovr := rfl
@[simp] theorem State.commit_errcode (u : Update) : (s.commit u).errcode = s.errcode := rfl
@[simp] theorem State.commit_errcmd (u : Update) : (s.commit u).errcmd = s.errcmd := rfl
@[simp] theorem State.commit_inflight (u : Update) : (s.commit u).inflight = none := rfl
@[simp] theorem State.commit_buf (u : Update) : (s.commit u).buf = (s.setAll u.setBits).buf := rfl
@[simp] theorem State.commit_cfg (u : Update) : (s.commit u).cfg = s.cfg := rfl
@[simp] theorem State.commit_epoch (u : Update) : (s.commit u).epoch = s.epoch := rfl
@[simp] theorem State.commit_inputs (u : Update) : (s.commit u).inputs = s.inputs := rfl
@[simp] theorem State.commit_rsp (u : Update) : (s.commit u).rsp = s.rsp := rfl

/-! ### Error completion -/

@[simp] theorem State.errorCompletion_regs (cw : Word) (code : ErrCode) : (s.errorCompletion cw code).regs = s.regs := rfl
@[simp] theorem State.errorCompletion_rcur (cw : Word) (code : ErrCode) : (s.errorCompletion cw code).rcur = s.rcur := rfl
@[simp] theorem State.errorCompletion_wcur (cw : Word) (code : ErrCode) : (s.errorCompletion cw code).wcur = s.wcur := rfl
@[simp] theorem State.errorCompletion_cmd (cw : Word) (code : ErrCode) : (s.errorCompletion cw code).cmd = s.cmd := rfl
@[simp] theorem State.errorCompletion_ie (cw : Word) (code : ErrCode) : (s.errorCompletion cw code).ie = s.ie := rfl
@[simp] theorem State.errorCompletion_done (cw : Word) (code : ErrCode) : (s.errorCompletion cw code).done = true := rfl
@[simp] theorem State.errorCompletion_err (cw : Word) (code : ErrCode) : (s.errorCompletion cw code).err = true := rfl
@[simp] theorem State.errorCompletion_ovr (cw : Word) (code : ErrCode) : (s.errorCompletion cw code).ovr = s.ovr := rfl
@[simp] theorem State.errorCompletion_errcode (cw : Word) (code : ErrCode) : (s.errorCompletion cw code).errcode = s.keptErrcode code := rfl
@[simp] theorem State.errorCompletion_errcmd (cw : Word) (code : ErrCode) : (s.errorCompletion cw code).errcmd = s.keptErrcmd cw := rfl
@[simp] theorem State.errorCompletion_inflight (cw : Word) (code : ErrCode) : (s.errorCompletion cw code).inflight = none := rfl
@[simp] theorem State.errorCompletion_buf (cw : Word) (code : ErrCode) : (s.errorCompletion cw code).buf = s.buf := rfl
@[simp] theorem State.errorCompletion_cfg (cw : Word) (code : ErrCode) : (s.errorCompletion cw code).cfg = s.cfg := rfl
@[simp] theorem State.errorCompletion_epoch (cw : Word) (code : ErrCode) : (s.errorCompletion cw code).epoch = s.epoch := rfl
@[simp] theorem State.errorCompletion_inputs (cw : Word) (code : ErrCode) : (s.errorCompletion cw code).inputs = s.inputs := rfl
@[simp] theorem State.errorCompletion_rsp (cw : Word) (code : ErrCode) : (s.errorCompletion cw code).rsp = s.rsp := rfl

/-! ### Clearing ERR -/

@[simp] theorem State.clearErr_regs  : (s.clearErr).regs = s.regs := rfl
@[simp] theorem State.clearErr_rcur  : (s.clearErr).rcur = s.rcur := rfl
@[simp] theorem State.clearErr_wcur  : (s.clearErr).wcur = s.wcur := rfl
@[simp] theorem State.clearErr_cmd  : (s.clearErr).cmd = s.cmd := rfl
@[simp] theorem State.clearErr_ie  : (s.clearErr).ie = s.ie := rfl
@[simp] theorem State.clearErr_done  : (s.clearErr).done = s.done := rfl
@[simp] theorem State.clearErr_err  : (s.clearErr).err = false := rfl
@[simp] theorem State.clearErr_ovr  : (s.clearErr).ovr = s.ovr := rfl
@[simp] theorem State.clearErr_errcode  : (s.clearErr).errcode = 0#4 := rfl
@[simp] theorem State.clearErr_errcmd  : (s.clearErr).errcmd = 0#32 := rfl
@[simp] theorem State.clearErr_inflight  : (s.clearErr).inflight = s.inflight := rfl
@[simp] theorem State.clearErr_buf  : (s.clearErr).buf = s.buf := rfl
@[simp] theorem State.clearErr_cfg  : (s.clearErr).cfg = s.cfg := rfl
@[simp] theorem State.clearErr_epoch  : (s.clearErr).epoch = s.epoch := rfl
@[simp] theorem State.clearErr_inputs  : (s.clearErr).inputs = s.inputs := rfl
@[simp] theorem State.clearErr_rsp  : (s.clearErr).rsp = s.rsp := rfl

/-! ### Soft reset -/

@[simp] theorem State.softReset_regs  : (s.softReset).regs = Vector.replicate 16 0#32 := rfl
@[simp] theorem State.softReset_rcur  : (s.softReset).rcur = 0#32 := rfl
@[simp] theorem State.softReset_wcur  : (s.softReset).wcur = 0#32 := rfl
@[simp] theorem State.softReset_cmd  : (s.softReset).cmd = 0#32 := rfl
@[simp] theorem State.softReset_ie  : (s.softReset).ie = false := rfl
@[simp] theorem State.softReset_done  : (s.softReset).done = false := rfl
@[simp] theorem State.softReset_err  : (s.softReset).err = false := rfl
@[simp] theorem State.softReset_ovr  : (s.softReset).ovr = false := rfl
@[simp] theorem State.softReset_errcode  : (s.softReset).errcode = 0#4 := rfl
@[simp] theorem State.softReset_errcmd  : (s.softReset).errcmd = 0#32 := rfl
@[simp] theorem State.softReset_inflight  : (s.softReset).inflight = none := rfl
@[simp] theorem State.softReset_buf  : (s.softReset).buf = s.buf := rfl
@[simp] theorem State.softReset_cfg  : (s.softReset).cfg = s.cfg := rfl
@[simp] theorem State.softReset_epoch  : (s.softReset).epoch = s.epoch := rfl
@[simp] theorem State.softReset_inputs  : (s.softReset).inputs = s.inputs := rfl
@[simp] theorem State.softReset_rsp  : (s.softReset).rsp = s.rsp := rfl

/-! ### Hard reset -/

@[simp] theorem State.hardReset_regs  : (s.hardReset).regs = Vector.replicate 16 0#32 := rfl
@[simp] theorem State.hardReset_rcur  : (s.hardReset).rcur = 0#32 := rfl
@[simp] theorem State.hardReset_wcur  : (s.hardReset).wcur = 0#32 := rfl
@[simp] theorem State.hardReset_cmd  : (s.hardReset).cmd = 0#32 := rfl
@[simp] theorem State.hardReset_ie  : (s.hardReset).ie = false := rfl
@[simp] theorem State.hardReset_done  : (s.hardReset).done = false := rfl
@[simp] theorem State.hardReset_err  : (s.hardReset).err = false := rfl
@[simp] theorem State.hardReset_ovr  : (s.hardReset).ovr = false := rfl
@[simp] theorem State.hardReset_errcode  : (s.hardReset).errcode = 0#4 := rfl
@[simp] theorem State.hardReset_errcmd  : (s.hardReset).errcmd = 0#32 := rfl
@[simp] theorem State.hardReset_inflight  : (s.hardReset).inflight = none := rfl
@[simp] theorem State.hardReset_buf  : (s.hardReset).buf = [] := rfl
@[simp] theorem State.hardReset_cfg  : (s.hardReset).cfg = s.cfg := rfl
@[simp] theorem State.hardReset_epoch  : (s.hardReset).epoch = s.epoch + 1 := rfl
@[simp] theorem State.hardReset_inputs  : (s.hardReset).inputs = s.inputs := rfl
@[simp] theorem State.hardReset_rsp  : (s.hardReset).rsp = none := rfl

/-! ### The host step: only the answer differs from the effect -/

@[simp] theorem State.hostStep_regs (t : BusReq) : (s.hostStep t).regs = (s.busEffect t).regs := rfl
@[simp] theorem State.hostStep_rcur (t : BusReq) : (s.hostStep t).rcur = (s.busEffect t).rcur := rfl
@[simp] theorem State.hostStep_wcur (t : BusReq) : (s.hostStep t).wcur = (s.busEffect t).wcur := rfl
@[simp] theorem State.hostStep_cmd (t : BusReq) : (s.hostStep t).cmd = (s.busEffect t).cmd := rfl
@[simp] theorem State.hostStep_ie (t : BusReq) : (s.hostStep t).ie = (s.busEffect t).ie := rfl
@[simp] theorem State.hostStep_done (t : BusReq) : (s.hostStep t).done = (s.busEffect t).done := rfl
@[simp] theorem State.hostStep_err (t : BusReq) : (s.hostStep t).err = (s.busEffect t).err := rfl
@[simp] theorem State.hostStep_ovr (t : BusReq) : (s.hostStep t).ovr = (s.busEffect t).ovr := rfl
@[simp] theorem State.hostStep_errcode (t : BusReq) : (s.hostStep t).errcode = (s.busEffect t).errcode := rfl
@[simp] theorem State.hostStep_errcmd (t : BusReq) : (s.hostStep t).errcmd = (s.busEffect t).errcmd := rfl
@[simp] theorem State.hostStep_inflight (t : BusReq) : (s.hostStep t).inflight = (s.busEffect t).inflight := rfl
@[simp] theorem State.hostStep_buf (t : BusReq) : (s.hostStep t).buf = (s.busEffect t).buf := rfl
@[simp] theorem State.hostStep_cfg (t : BusReq) : (s.hostStep t).cfg = (s.busEffect t).cfg := rfl
@[simp] theorem State.hostStep_epoch (t : BusReq) : (s.hostStep t).epoch = (s.busEffect t).epoch := rfl
@[simp] theorem State.hostStep_inputs (t : BusReq) : (s.hostStep t).inputs = (s.busEffect t).inputs := rfl
@[simp] theorem State.hostStep_rsp (t : BusReq) : (s.hostStep t).rsp = some (s.answer t) := rfl

/-! ### Derived views -/

@[simp] theorem State.busy_issue (cw : Word) : (s.issue cw).busy = true := rfl
@[simp] theorem State.busy_commit (u : Update) : (s.commit u).busy = false := rfl
@[simp] theorem State.busy_errorCompletion (cw : Word) (code : ErrCode) : (s.errorCompletion cw code).busy = false := rfl
@[simp] theorem State.busy_softReset : s.softReset.busy = false := rfl
@[simp] theorem State.busy_hardReset : s.hardReset.busy = false := rfl

/-- BUSY = 1 is a command in flight (10_state.md R41). -/
theorem State.busy_iff : s.busy = true ↔ ∃ f, s.inflight = some f := by
  simp [State.busy, Option.isSome_iff_exists]

theorem State.not_busy_iff : s.busy = false ↔ s.inflight = none := by
  simp [State.busy]

end Sys2Proof.Machine
end

