-- ==== Sys2Proof/Laws/Memory.lean ====
section
/-! SUPPORT. The laws of BUF: read after write, the canonical form kept by every operation, and what a byte or a bit of BUF
reads as after each of them. -/

namespace Sys2Proof.Machine

/-! ### The list of written bytes -/

namespace Memory

@[simp] theorem read?_write_same (m : Memory) (a : Nat) (b : Byte) : read? (write m a b) a = some b := by
  induction m with
  | nil => simp [write, read?]
  | cons c m ih =>
    obtain ⟨k, x⟩ := c
    simp only [write]
    split
    · simp [read?]
    · split
      · simp [read?]
      · rename_i h h'
        simp [read?, ih, show ¬ k = a by omega]

theorem read?_write_other (m : Memory) {a k : Nat} (b : Byte) (h : k ≠ a) : read? (write m a b) k = read? m k := by
  induction m with
  | nil => simp [write, read?, show ¬ a = k by omega]
  | cons c m ih =>
    obtain ⟨j, x⟩ := c
    simp only [write]
    split
    · simp [read?, show ¬ a = k by omega]
    · split
      · subst_vars; simp [read?, show ¬ j = k by omega]
      · simp [read?, ih]

theorem mem_write {m : Memory} {a : Nat} {b : Byte} {c : Host.Cell} (h : c ∈ write m a b) : c = (a, b) ∨ c ∈ m := by
  induction m with
  | nil => simpa [write] using h
  | cons d m ih =>
    obtain ⟨k, x⟩ := d
    simp only [write] at h
    split at h
    · simpa using h
    · split at h
      · simp only [List.mem_cons] at h ⊢
        tauto
      · simp only [List.mem_cons] at h ⊢
        rcases h with h | h
        · exact .inr (.inl h)
        · rcases ih h with h | h
          · exact .inl h
          · exact .inr (.inr h)

/-- Every write keeps the canonical form. -/
theorem wf_write {m : Memory} (h : wf m = true) (a : Nat) (b : Byte) : wf (write m a b) = true := by
  induction m with
  | nil => rfl
  | cons c m ih =>
    obtain ⟨k, x⟩ := c
    simp only [write]
    split
    · simp [wf, *]
    · split
      · subst_vars
        cases m <;> simp_all [wf]
      · rename_i h1 h2
        cases m with
        | nil => simp [write, wf]; omega
        | cons d m =>
          obtain ⟨j, y⟩ := d
          simp only [wf, Bool.and_eq_true, decide_eq_true_eq] at h
          have := ih h.2
          simp only [write] at this ⊢
          split
          · simp_all [wf]; omega
          · split
            · simp_all [wf]
            · simp_all [wf]

/-- Writing the same byte again changes nothing. -/
@[simp] theorem write_write_same (m : Memory) (a : Nat) (b c : Byte) : write (write m a b) a c = write m a c := by
  induction m with
  | nil => simp [write]
  | cons d m ih =>
    obtain ⟨k, x⟩ := d
    simp only [write]
    split
    · simp [write]
    · split
      · simp [write]
      · simp [write, *]

/-- Where a write changes nothing, it still changes nothing after a write at a higher address. -/
theorem write_fixed {m : Memory} {a k : Nat} {b c : Byte} (h : write m a b = m) (hk : a < k) :
    write (write m k c) a b = write m k c := by
  induction m with
  | nil => simp [write] at h
  | cons d m ih =>
    obtain ⟨j, x⟩ := d
    simp only [write] at h
    split at h
    · simpa using congrArg List.length h
    · split at h
      · rename_i h1 h2
        subst h2
        simp only [write, if_neg (show ¬ k < a by omega), if_neg (show ¬ k = a by omega), lt_irrefl, if_true, if_false]
        simp_all
      · rename_i h1 h2
        have h' : write m a b = m := by simpa using h
        simp only [write, if_neg (show ¬ k < j by omega), if_neg (show ¬ k = j by omega), h1, h2, if_false, ih h']

end Memory

/-! ### Bytes of BUF -/

variable (s : State)

@[simp] theorem State.bufByte_setByte_same (a : Nat) (b : Byte) : (s.setByte a b).bufByte a = b := by
  simp [State.bufByte]

theorem State.bufByte_setByte_other {a k : Nat} (b : Byte) (h : k ≠ a) : (s.setByte a b).bufByte k = s.bufByte k := by
  simp [State.bufByte, Memory.read?_write_other _ _ h]

/-- BUF reads the same in states with the same written bytes and the same free bytes. -/
theorem State.bufByte_congr {s t : State} (hb : t.buf = s.buf) (he : t.epoch = s.epoch) (a : Nat) :
    t.bufByte a = s.bufByte a := by
  simp [State.bufByte, hb, he]

theorem State.bufBit_congr {s t : State} (hb : t.buf = s.buf) (he : t.epoch = s.epoch) (p : Nat) :
    t.bufBit p = s.bufBit p := by
  simp [State.bufBit, State.bufByte_congr hb he]

theorem State.memRead_congr {s t : State} (h : ∀ a, t.bufByte a = s.bufByte a) (a k : Nat) :
    t.memRead a k = s.memRead a k := by
  induction k with
  | zero => rfl
  | succ k ih => simp [State.memRead, ih, h]

theorem State.field_congr {s t : State} {c w : Nat} (h : ∀ p, c ≤ p → p < c + w → t.bufBit p = s.bufBit p) :
    t.field c w = s.field c w := by
  induction w with
  | zero => rfl
  | succ w ih =>
    simp only [State.field]
    rw [ih fun p h1 h2 => h p h1 (by omega), h (c + w) (by omega) (by omega)]

/-! ### Little-endian accesses -/

/-- A MemWrite changes BUF alone. -/
theorem State.memWrite_eq (a : Nat) (v : Word) (k : Nat) :
    s.memWrite a v k = { s with buf := (s.memWrite a v k).buf } := by
  induction k with
  | zero => rfl
  | succ k ih => rw [State.memWrite, ih]; rfl

theorem State.bufByte_memWrite_other {a x : Nat} (v : Word) {k : Nat} (h : x < a ∨ a + k ≤ x) :
    (s.memWrite a v k).bufByte x = s.bufByte x := by
  induction k with
  | zero => rfl
  | succ k ih =>
    rw [State.memWrite, State.bufByte_setByte_other _ _ (by omega), ih (by omega)]

theorem State.bufByte_memWrite {a : Nat} (v : Word) {j k : Nat} (h : j < k) :
    (s.memWrite a v k).bufByte (a + j) = v.extractLsb' (8 * j) 8 := by
  induction k with
  | zero => omega
  | succ k ih =>
    rw [State.memWrite]
    by_cases hj : j = k
    · subst hj; simp
    · rw [State.bufByte_setByte_other _ _ (by omega), ih (by omega)]

theorem State.memWrite_wf (h : Memory.wf s.buf = true) (a : Nat) (v : Word) (k : Nat) :
    Memory.wf (s.memWrite a v k).buf = true := by
  induction k with
  | zero => exact h
  | succ k ih => exact Memory.wf_write ih _ _

theorem State.mem_memWrite {a : Nat} {v : Word} {k : Nat} {c : Host.Cell} (h : c ∈ (s.memWrite a v k).buf) :
    (a ≤ c.1 ∧ c.1 < a + k) ∨ c ∈ s.buf := by
  induction k with
  | zero => exact .inr h
  | succ k ih =>
    rcases Memory.mem_write (m := (s.memWrite a v k).buf) h with h | h
    · subst h; simp
    · rcases ih h with h | h
      · exact .inl ⟨h.1, by omega⟩
      · exact .inr h

theorem State.setByte_memWrite_fixed {a j k : Nat} {v : Word} (h : j < k) :
    (s.memWrite a v k).setByte (a + j) (v.extractLsb' (8 * j) 8) = s.memWrite a v k := by
  induction k with
  | zero => omega
  | succ k ih =>
    by_cases hj : j = k
    · subst hj
      simp [State.memWrite, State.setByte]
    · have hf := congrArg State.buf (ih (by omega))
      simp only [State.memWrite, State.setByte] at hf ⊢
      rw [Memory.write_fixed hf (by omega)]

/-- A MemWrite is idempotent (20_memory.md R71). -/
theorem State.memWrite_memWrite (a : Nat) (v : Word) (k : Nat) :
    (s.memWrite a v k).memWrite a v k = s.memWrite a v k := by
  have h : ∀ n ≤ k, (s.memWrite a v k).memWrite a v n = s.memWrite a v k := by
    intro n hn
    induction n with
    | zero => rfl
    | succ n ih => rw [State.memWrite, ih (by omega), State.setByte_memWrite_fixed s (by omega)]
  exact h k (le_refl k)

/-! ### Bits of BUF -/

theorem State.bufBit_setBit (p q : Nat) : (s.setBit p).bufBit q = (s.bufBit q || decide (q = p)) := by
  unfold State.bufBit State.setBit
  by_cases hb : q / 8 = p / 8
  · rw [hb, State.bufByte_setByte_same]
    have h8 : q % 8 < 8 := Nat.mod_lt _ (by omega)
    simp only [BitVec.getLsbD_or, BitVec.getLsbD_twoPow]
    congr 1
    by_cases hq : q = p
    · subst hq; simp [h8]
    · simp [hq]; omega
  · rw [State.bufByte_setByte_other _ _ hb]
    have : q ≠ p := by rintro rfl; exact hb rfl
    simp [this]

theorem State.setAll_nil : s.setAll [] = s := rfl

theorem State.setAll_cons (p : Nat) (ps : List Nat) : s.setAll (p :: ps) = (s.setBit p).setAll ps := rfl

/-- Setting bits changes BUF alone. -/
theorem State.setAll_eq (ps : List Nat) : s.setAll ps = { s with buf := (s.setAll ps).buf } := by
  induction ps generalizing s with
  | nil => rfl
  | cons p ps ih => rw [State.setAll_cons, ih]; rfl

@[simp] theorem State.setAll_epoch (ps : List Nat) : (s.setAll ps).epoch = s.epoch := by rw [State.setAll_eq]

/-- Setting a list of bits sets those bits and no other (44_bitstream.md R175). -/
theorem State.bufBit_setAll (ps : List Nat) (q : Nat) : (s.setAll ps).bufBit q = (s.bufBit q || decide (q ∈ ps)) := by
  induction ps generalizing s with
  | nil => simp [State.setAll_nil]
  | cons p ps ih =>
    rw [State.setAll_cons, ih, State.bufBit_setBit]
    by_cases h : q = p <;> simp [h]

/-- A byte that holds none of the bits set reads as before. -/
theorem State.bufByte_setAll_other {ps : List Nat} {a : Nat} (h : ∀ p ∈ ps, p / 8 ≠ a) :
    (s.setAll ps).bufByte a = s.bufByte a := by
  induction ps generalizing s with
  | nil => rfl
  | cons p ps ih =>
    rw [State.setAll_cons, ih _ fun q hq => h q (by simp [hq]), State.setBit,
      State.bufByte_setByte_other _ _ fun he => h p (by simp) he.symm]

theorem State.setAll_wf (h : Memory.wf s.buf = true) (ps : List Nat) : Memory.wf (s.setAll ps).buf = true := by
  induction ps generalizing s with
  | nil => exact h
  | cons p ps ih => exact ih _ (Memory.wf_write h _ _)

theorem State.mem_setAll {ps : List Nat} {c : Host.Cell} (h : c ∈ (s.setAll ps).buf) :
    (∃ p ∈ ps, c.1 = p / 8) ∨ c ∈ s.buf := by
  induction ps generalizing s with
  | nil => exact .inr h
  | cons p ps ih =>
    rcases ih _ h with ⟨q, hq, hc⟩ | h
    · exact .inl ⟨q, by simp [hq], hc⟩
    · rcases Memory.mem_write (m := s.buf) h with h | h
      · exact .inl ⟨p, by simp, by rw [h]⟩
      · exact .inr h

/-- The addresses WRBITS sets lie in its field (44_bitstream.md R170, R174). -/
theorem mem_fieldOnes {v : Word} {c w q : Nat} :
    q ∈ ((List.range w).filter fun k => v.getLsbD k).map (c + ·) ↔ c ≤ q ∧ q < c + w ∧ v.getLsbD (q - c) = true := by
  simp only [List.mem_map, List.mem_filter, List.mem_range]
  constructor
  · rintro ⟨k, ⟨hk, hv⟩, rfl⟩
    exact ⟨by omega, by omega, by simpa using hv⟩
  · rintro ⟨h1, h2, h3⟩
    exact ⟨q - c, ⟨by omega, h3⟩, by omega⟩

/-! ### After issue and completions -/

@[simp] theorem State.bufByte_issue (cw : Word) (a : Nat) : (s.issue cw).bufByte a = s.bufByte a := rfl
@[simp] theorem State.bufBit_issue (cw : Word) (p : Nat) : (s.issue cw).bufBit p = s.bufBit p := rfl
@[simp] theorem State.bufByte_errorCompletion (cw : Word) (code : ErrCode) (a : Nat) :
    (s.errorCompletion cw code).bufByte a = s.bufByte a := rfl
@[simp] theorem State.bufByte_softReset (a : Nat) : s.softReset.bufByte a = s.bufByte a := rfl

theorem State.bufByte_commit (u : Update) (a : Nat) : (s.commit u).bufByte a = (s.setAll u.setBits).bufByte a :=
  State.bufByte_congr (by simp) (by simp) a

theorem State.bufBit_commit (u : Update) (p : Nat) : (s.commit u).bufBit p = (s.setAll u.setBits).bufBit p :=
  State.bufBit_congr (by simp) (by simp) p

end Sys2Proof.Machine
end

