-- ==== Sys2Proof/Laws/Commands.lean ====
section
/-! SUPPORT. What each shared operation can do, once: register access, commit, the error completion, the completion of a
command, the host step, and the step. -/

namespace Sys2Proof.Machine

variable (s : State)

/-! ### Operand registers -/

@[simp] theorem State.reg_setReg_same (i : Reg) (v : Word) : (s.setReg i v).reg i = v := by
  simp [State.reg]

theorem State.reg_setReg_other {i j : Reg} (v : Word) (h : j ≠ i) : (s.setReg i v).reg j = s.reg j := by
  have : (i : Nat) ≠ j := fun he => h (Fin.ext he.symm)
  simp [State.reg, Vector.getElem_set_ne, this]

@[simp] theorem State.reg_issue (cw : Word) (r : Reg) : (s.issue cw).reg r = s.reg r := rfl

/-- Registers agree when the register files do. -/
theorem State.reg_congr {s t : State} (h : t.regs = s.regs) (r : Reg) : t.reg r = s.reg r := by
  simp [State.reg, h]

theorem State.regs_ext {s t : State} (h : ∀ r, t.reg r = s.reg r) : t.regs = s.regs := by
  apply Vector.ext
  intro i hi
  exact h ⟨i, hi⟩

/-- What the fields of a command's own word select (40_command_lifecycle.md R112). -/
theorem CommandFields.ofWord_toWord (f : CommandFields) : CommandFields.ofWord f.toWord = f := by
  obtain ⟨rsv, rs3, rs2, rs1, rd, opc⟩ := f
  simp only [CommandFields.ofWord, CommandFields.toWord, CommandFields.mk.injEq]
  refine ⟨?_, ?_, ?_, ?_, ?_, ?_⟩ <;>
  · apply BitVec.eq_of_getLsbD_eq
    intro i hi
    simp only [BitVec.getLsbD_extractLsb', BitVec.getLsbD_append, hi, decide_true, Bool.true_and]
    have := hi
    repeat' split
    all_goals first | omega | (congr 1; omega)

@[simp] theorem regOfField_fieldOfReg (r : Reg) : regOfField (fieldOfReg r) = r := rfl

@[simp] theorem regOfField_zero : regOfField 0#4 = 0 := rfl

/-- The operands captured when the word of `i` is issued (40_command_lifecycle.md R110, R112). -/
theorem State.captureOps_encode (i : Instr) :
    s.captureOps (encode i) =
      { s1 := s.reg (regOfField (encodeFields i).rs1)
        s2 := s.reg (regOfField (encodeFields i).rs2)
        s3 := s.reg (regOfField (encodeFields i).rs3)
        rc := s.rcur
        wc := s.wcur } := by
  simp [State.captureOps, encode, CommandFields.ofWord_toWord]

@[simp] theorem State.captureOps_bitlen (rd rs1 : Reg) :
    s.captureOps (encode (.bitlen rd rs1)) = ⟨s.reg rs1, s.reg 0, s.reg 0, s.rcur, s.wcur⟩ := by
  rw [State.captureOps_encode]
  rfl

@[simp] theorem State.captureOps_clz (rd rs1 : Reg) :
    s.captureOps (encode (.clz rd rs1)) = ⟨s.reg rs1, s.reg 0, s.reg 0, s.rcur, s.wcur⟩ := by
  rw [State.captureOps_encode]
  rfl

@[simp] theorem State.captureOps_modmul (rd rs1 rs2 rs3 : Reg) :
    s.captureOps (encode (.modmul rd rs1 rs2 rs3)) = ⟨s.reg rs1, s.reg rs2, s.reg rs3, s.rcur, s.wcur⟩ := by
  rw [State.captureOps_encode]
  rfl

@[simp] theorem State.captureOps_modred (rd rs1 rs2 rs3 : Reg) :
    s.captureOps (encode (.modred rd rs1 rs2 rs3)) = ⟨s.reg rs1, s.reg rs2, s.reg rs3, s.rcur, s.wcur⟩ := by
  rw [State.captureOps_encode]
  rfl

@[simp] theorem State.captureOps_modexp (rd rs1 rs2 rs3 : Reg) :
    s.captureOps (encode (.modexp rd rs1 rs2 rs3)) = ⟨s.reg rs1, s.reg rs2, s.reg rs3, s.rcur, s.wcur⟩ := by
  rw [State.captureOps_encode]
  rfl

@[simp] theorem State.captureOps_modinv (rd rs1 rs2 : Reg) :
    s.captureOps (encode (.modinv rd rs1 rs2)) = ⟨s.reg rs1, s.reg rs2, s.reg 0, s.rcur, s.wcur⟩ := by
  rw [State.captureOps_encode]
  rfl

@[simp] theorem State.captureOps_rdbits (rd rs1 : Reg) :
    s.captureOps (encode (.rdbits rd rs1)) = ⟨s.reg rs1, s.reg 0, s.reg 0, s.rcur, s.wcur⟩ := by
  rw [State.captureOps_encode]
  rfl

@[simp] theorem State.captureOps_wrbits (rs1 rs2 : Reg) :
    s.captureOps (encode (.wrbits rs1 rs2)) = ⟨s.reg rs1, s.reg rs2, s.reg 0, s.rcur, s.wcur⟩ := by
  rw [State.captureOps_encode]
  rfl

/-! ### Completions -/

/-- A commit's flags (40_command_lifecycle.md R114). -/
theorem State.commit_completedOk (u : Update) : CompletedOk s (s.commit u) where
  ie := rfl
  ovr := rfl
  cmd := rfl
  cfg := rfl
  epoch := rfl
  inputs := rfl
  rsp := rfl
  done := rfl
  idle := rfl
  err := rfl
  errcode := rfl
  errcmd := rfl

@[simp] theorem State.reg_commit_none {u : Update} (h : u.reg = none) (r : Reg) : (s.commit u).reg r = s.reg r := by
  simp [State.reg, h, applyReg]

theorem State.reg_commit_same {u : Update} {rd : Reg} {v : Word} (h : u.reg = some (rd, v)) :
    (s.commit u).reg rd = v := by
  simp [State.reg, h, applyReg]

theorem State.reg_commit_other {u : Update} {rd r : Reg} {v : Word} (h : u.reg = some (rd, v)) (hr : r ≠ rd) :
    (s.commit u).reg r = s.reg r := by
  have : (rd : Nat) ≠ r := fun he => hr (Fin.ext he.symm)
  simp [State.reg, h, applyReg, Vector.getElem_set_ne, this]

/-- An error completion is precise and keeps the first error (60_exceptions.md R205, R206). -/
theorem State.errorCompletion_failedWith (cw : Word) (code : ErrCode) :
    FailedWith cw code.value s (s.errorCompletion cw code) where
  ie := rfl
  ovr := rfl
  cmd := rfl
  cfg := rfl
  epoch := rfl
  inputs := rfl
  rsp := rfl
  regs _ := rfl
  rcur := rfl
  wcur := rfl
  buf _ := rfl
  recorded h := by simp [State.keptErrcode, State.keptErrcmd, h]
  kept h := by simp [State.keptErrcode, State.keptErrcmd, h]
  err := rfl
  done := rfl
  idle := rfl

theorem State.complete_of_inflight {f : InFlight} (h : s.inflight = some f) (res : Operands → ExecResult) :
    s.complete res = .next (s.finish f.cw (res f.ops)) := by
  simp [State.complete, h]

@[simp] theorem State.complete_issue (cw : Word) (res : Operands → ExecResult) :
    (s.issue cw).complete res = .next ((s.issue cw).finish cw (res (s.captureOps cw))) := rfl

/-- The result `Exec` computes for a legal command (40_command_lifecycle.md R115). -/
def execResult (i : Instr) (s : State) (ops : Operands) : ExecResult :=
  match i with
  | .nop => nopResult
  | .bitlen rd _ => bitlenResult rd ops
  | .clz rd _ => clzResult rd ops
  | .modmul rd _ _ _ => modmulResult rd ops
  | .modred rd _ _ _ => modredResult rd ops
  | .modexp rd _ _ _ => modexpResult rd ops
  | .modinv rd _ _ => modinvResult rd ops
  | .rdbits rd _ => rdbitsResult s rd ops
  | .wrbits _ _ => wrbitsResult s ops

/-- Every meaning is the completion of its own result. -/
theorem exec_eq_complete (i : Instr) : exec i s = s.complete (execResult i s) := by
  cases i <;> rfl

/-- What a command that answers a next state did: with a command in flight, its result was committed or its error
recorded. -/
theorem exec_next {i : Instr} {t : State} (h : exec i s = .next t) :
    ∃ f, s.inflight = some f ∧
      ((∃ u, execResult i s f.ops = .ok u ∧ t = s.commit u) ∨
       (∃ e, execResult i s f.ops = .err e ∧ t = s.errorCompletion f.cw e)) := by
  rw [exec_eq_complete] at h
  unfold State.complete at h
  split at h
  · cases h
  · rename_i f hf
    refine ⟨f, hf, ?_⟩
    cases h
    cases hr : execResult i s f.ops with
    | ok u => exact .inl ⟨u, rfl, rfl⟩
    | err e => exact .inr ⟨e, rfl, rfl⟩

/-- A command executed where its own word was issued: the result for the registers its fields name. -/
theorem exec_issued (i : Instr) :
    exec i (s.issued i) =
      .next ((s.issued i).finish (encode i) (execResult i (s.issued i) (s.captureOps (encode i)))) := by
  rw [exec_eq_complete]
  rfl

/-- The checks on a field pass exactly when it fits (44_bitstream.md R171, R174). -/
theorem State.checkField_of_fits {c w : Nat} (h : s.FieldFits c w) (u : Update) : s.checkField c w u = .ok u := by
  obtain ⟨h1, h2⟩ := h
  unfold State.checkField State.bufBits
  rw [if_neg (by omega), if_neg (by omega)]

theorem State.checkField_width {c w : Nat} (h : 32 < w) (u : Update) : s.checkField c w u = .err .width := by
  unfold State.checkField
  rw [if_pos h]

theorem State.checkField_bounds {c w : Nat} (h1 : w ≤ 32) (h2 : 0 < w) (h3 : 8 * s.cfg.bufBytes < c + w) (u : Update) :
    s.checkField c w u = .err .bounds := by
  unfold State.checkField State.bufBits
  rw [if_neg (show ¬ w > 32 by omega), if_pos (by omega)]

/-! ### The host step and the step -/

theorem State.hostStep_read {t : BusReq} (h : t.kind = .read) : s.hostStep t = { s with rsp := some (s.answer t) } := by
  unfold State.hostStep State.busEffect
  rw [h]
  split <;> rfl

/-- A badly placed access is answered BUSERR with `rdata = 0` (10_state.md R21). -/
theorem State.answer_busErr {t : BusReq} (h : t.wellPlaced = false) :
    s.answer t = { resp := .busErr, rdata := some 0#32 } := by
  simp [State.answer, h]

theorem State.hostStep_busErr {t : BusReq} (h : t.wellPlaced = false) : s.hostStep t = { s with rsp := some .busErr } := by
  simp [State.hostStep, State.busEffect, State.answer, h]

theorem State.hostStep_write {t : BusReq} (h : t.wellPlaced = true) (hk : t.kind = .write) :
    s.hostStep t = { s.busWrite t with rsp := some .writeOk } := by
  simp [State.hostStep, State.busEffect, State.answer, h, hk]

theorem step_nil (h : s.inputs = []) : step s = engineStep s := by
  simp [step, blockStep, h]

theorem step_cons {e : Event} {rest : List Event} (h : s.inputs = e :: rest) :
    step s = eventStep { s with inputs := rest } e := by
  simp [step, blockStep, h]

/-- The engine's turn: nothing without a command in flight, else the command of a legal word or the error ILLEGAL. -/
theorem engineStep_cases :
    (s.inflight = none ∧ engineStep s = .next s) ∨
    (∃ f i, s.inflight = some f ∧ decode f.cw = .command i ∧ engineStep s = .next (s.finish f.cw (execResult i s f.ops))) ∨
    (∃ f why, s.inflight = some f ∧ decode f.cw = .illegal why ∧
      engineStep s = .next (s.errorCompletion f.cw .illegal)) := by
  unfold engineStep
  cases hf : s.inflight with
  | none => exact .inl ⟨rfl, rfl⟩
  | some f =>
    cases hd : decode f.cw with
    | command i =>
      refine .inr (.inl ⟨f, i, rfl, hd, ?_⟩)
      simp only [hd, exec_eq_complete, State.complete_of_inflight _ hf]
    | illegal why => exact .inr (.inr ⟨f, why, rfl, hd, by simp [hd]⟩)

end Sys2Proof.Machine
end

