-- ==== Sys2Proof/Laws/Bus.lean ====
section
/-! SUPPORT. The host step on the transactions of the host-program notation (30_encoding.md R101): what an offset names, and
what a register read or write is. -/

namespace Sys2Proof.Machine

variable (s : State)

/-- The offset of Xi (10_state.md R25). -/
theorem toNat_offset_x (i : Reg) : (RegName.x i).offset.toNat = 0x40 + 4 * i.val := by
  simp only [RegName.offset, BitVec.toNat_ofNat]
  omega

/-- A 4-byte access at a register's offset is well placed (20_memory.md R66). -/
theorem wellPlaced_register (k : BusKind) (r : RegName) (w : Word) :
    (BusReq.mk k r.offset .word w).wellPlaced = true := by
  cases r with
  | x i =>
    have hi := i.isLt
    simp [BusReq.wellPlaced, windowBase, toNat_offset_x]
    omega
  | _ => simp [BusReq.wellPlaced, windowBase, RegName.offset]

/-- The offsets of the operand registers in the map (10_state.md R25): none of the eight other registers is there. -/
theorem registerAt_x (i : Reg) : registerAt (0x40 + 4 * i.val) = some (.x i) := by
  have low : ∀ k < 0x40, 0x40 + 4 * i.val ≠ k := by omega
  have inRange : 0x40 + 4 * i.val < 0x80 := by omega
  simp [registerAt, low, inRange]

/-- A register's offset names that register (10_state.md R25, R27). -/
@[simp] theorem targetOf_register (n : Nat) (r : RegName) : targetOf n r.offset = .reg r := by
  cases r with
  | x i =>
    have hi := i.isLt
    rw [targetOf, toNat_offset_x, if_pos (by simp only [windowBase]; omega), registerAt_x]
  | _ => simp [targetOf, windowBase, RegName.offset, registerAt]

/-- No two registers share an offset (10_state.md R27), and each has the offset the map gives it. -/
theorem offset_of_targetOf {n : Nat} {off : BitVec 17} {r : RegName} (h : targetOf n off = .reg r) : off = r.offset := by
  unfold targetOf at h
  split at h
  · unfold registerAt at h
    apply BitVec.eq_of_toNat_eq
    split at h
    · rename_i hr
      cases h
      repeat' split at hr
      all_goals first
        | (cases hr; done)
        | (cases hr; assumption)
        | (cases hr
           rename_i hx
           simp only [toNat_offset_x, Fin.ofNat]
           omega)
    · cases h
  · split at h <;> cases h

/-- `HW reg, v`. -/
theorem State.hostStep_hostWrite (r : RegName) (v : Word) :
    s.hostStep (hostWrite r v) = { s.writeRegister v r with rsp := some .writeOk } := by
  rw [hostWrite, State.hostStep_write _ (wellPlaced_register _ r v) rfl]
  simp only [State.busWrite, targetOf_register]

/-- `HR reg`. -/
theorem State.answer_register_read (r : RegName) (w : Word) :
    s.answer ⟨.read, r.offset, .word, w⟩ = .readOk (s.readRegister r) := by
  simp only [State.answer, wellPlaced_register, if_true, State.busRead, targetOf_register]

/-- While BUSY = 1 a busy-protected write sets OVR and does nothing else (10_state.md R39). -/
theorem State.busyProtected_busy (h : s.busy = true) (f : State → State) :
    s.busyProtected f = { s with ovr := true } := by
  simp [State.busyProtected, h]

/-- While BUSY = 0 it is the write (R121). -/
theorem State.busyProtected_idle (h : s.busy = false) (f : State → State) : s.busyProtected f = f s := by
  simp [State.busyProtected, h]

end Sys2Proof.Machine
end

