-- ==== Sys2Proof/Laws/PerInstr.lean ====
section
/-! SUPPORT. Facts about every instruction as syntax, one lemma per constructor. -/

/-- The encoder's fields are legal (30_encoding.md R95, R99: "An assembler encodes every unused field as 0"). -/
def Sys2Proof.Laws.LegalFields.Statement (i : Sys2Proof.Instr) : Prop := (Sys2Proof.encodeFields i).legal = true

namespace Sys2Proof.Laws.LegalFields

theorem nop : Statement .nop := rfl
theorem bitlen (rd rs1 : Reg) : Statement (.bitlen rd rs1) := rfl
theorem clz (rd rs1 : Reg) : Statement (.clz rd rs1) := rfl
theorem modmul (rd rs1 rs2 rs3 : Reg) : Statement (.modmul rd rs1 rs2 rs3) := rfl
theorem modred (rd rs1 rs2 rs3 : Reg) : Statement (.modred rd rs1 rs2 rs3) := rfl
theorem modexp (rd rs1 rs2 rs3 : Reg) : Statement (.modexp rd rs1 rs2 rs3) := rfl
theorem modinv (rd rs1 rs2 : Reg) : Statement (.modinv rd rs1 rs2) := rfl
theorem rdbits (rd rs1 : Reg) : Statement (.rdbits rd rs1) := rfl
theorem wrbits (rs1 rs2 : Reg) : Statement (.wrbits rs1 rs2) := rfl

end Sys2Proof.Laws.LegalFields
end

