-- ==== Sys2Proof/Tests/Slice0.lean ====
section
/-! SUPPORT. Tests. Expected values come from spec/95_test_vectors.md and the worked encodings of 30_encoding.md R102; the
witnesses show states and operands that meet the hypotheses of the statements. -/

namespace Sys2Proof.Tests

open Sys2Proof Sys2Proof.Machine

/-! ### WellFormed: one ill-formed term for each check (R95) -/

theorem test_legal_modmul : CommandFields.legal ⟨0#8, 3#4, 2#4, 1#4, 4#4, 0x10#8⟩ = true := by decide
theorem test_illformed_rsv : CommandFields.legal ⟨0x80#8, 3#4, 2#4, 1#4, 4#4, 0x10#8⟩ = false := by decide
theorem test_illformed_opcode : CommandFields.legal ⟨0#8, 3#4, 2#4, 1#4, 4#4, 0x13#8⟩ = false := by decide
theorem test_illformed_unused_rd : CommandFields.legal ⟨0#8, 0#4, 7#4, 6#4, 1#4, 0x31#8⟩ = false := by decide
theorem test_illformed_unused_rs1 : CommandFields.legal ⟨0#8, 0#4, 0#4, 1#4, 0#4, 0x00#8⟩ = false := by decide
theorem test_illformed_unused_rs2 : CommandFields.legal ⟨0#8, 0#4, 3#4, 2#4, 1#4, 0x01#8⟩ = false := by decide
theorem test_illformed_unused_rs3 : CommandFields.legal ⟨0#8, 15#4, 2#4, 1#4, 4#4, 0x20#8⟩ = false := by decide

/-! ### Decoding: each word written out from its pattern in R94 -/

theorem test_decode_nop : decode 0b00000000_0000_0000_0000_0000_00000000#32 = .command .nop := by decide
theorem test_decode_bitlen : decode 0b00000000_0000_0000_0010_0001_00000001#32 = .command (.bitlen 1 2) := by decide
theorem test_decode_clz : decode 0b00000000_0000_0000_0010_0011_00000010#32 = .command (.clz 3 2) := by decide
theorem test_decode_modmul : decode 0b00000000_0011_0010_0001_0100_00010000#32 = .command (.modmul 4 1 2 3) := by decide
theorem test_decode_modred : decode 0b00000000_0011_0010_0001_0100_00010001#32 = .command (.modred 4 1 2 3) := by decide
theorem test_decode_modexp : decode 0b00000000_0011_0010_0001_0100_00010010#32 = .command (.modexp 4 1 2 3) := by decide
theorem test_decode_modinv : decode 0b00000000_0000_0010_0001_0101_00100000#32 = .command (.modinv 5 1 2) := by decide
theorem test_decode_rdbits : decode 0b00000000_0000_0000_0111_0110_00110000#32 = .command (.rdbits 6 7) := by decide
theorem test_decode_wrbits : decode 0b00000000_0000_0111_0110_0000_00110001#32 = .command (.wrbits 6 7) := by decide

/-- The illegal words of L2.1. -/
theorem test_decode_illegal_words :
    ([0x000000FF#32, 0x00321413#32, 0x01000000#32, 0x00000100#32, 0x00302101#32, 0x00076131#32, 0x00F21420#32,
      0x80321410#32] : List Word).all (fun w => (decode w).instr? == none) = true := by decide

theorem test_decodeTableWord : decodeTableWord 32 0x00321412 = some (.modexp 4 1 2 3) := by decide

/-! ### Assembler (R99) -/

theorem test_assemble_any_case : assemble "modmul x4, X1, x2, X3".toList = some 0x00321410#32 := by decide
theorem test_assemble_unused_zero : assemble "WRBITS X6, X7".toList = some 0x00076031#32 := by decide
theorem test_assemble_rejects : assemble "BITLEN X1, X16".toList = none := by decide

/-! ### States -/

/-- A reset state with BUF_BYTES = 16, these registers (first X0) and these BUF bytes from byte 0. -/
def small (xs : List Word) (bytes : List Byte := []) : State :=
  { State.reset with
    regs := Vector.ofFn fun i => xs.getD i.val 0#32
    cfg := { bufBytes := 16 }
    buf := bytes.mapIdx fun a b => (a, b) }

/-- The state after `EXEC i` from `s`. -/
def after (s : State) (i : Instr) : Option State := nextState? (exec i (s.issued i))

/-- Register `r` after `EXEC i` from `s`. -/
def regAfter (s : State) (i : Instr) (r : Reg) : Option Word := (after s i).map (·.reg r)

/-- The STATUS word after `EXEC i` from `s`. -/
def statusAfter (s : State) (i : Instr) : Option Word := (after s i).map (·.statusWord)

/-- The state after the block's next step from `s`. -/
def stepFrom (s : State) : Option State := nextState? (step s)

/-! ### Commands (95_test_vectors.md L2.2 to L2.7, L2.10) -/

theorem test_nop_status : statusAfter (small []) .nop = some 0x00000002#32 := by decide
theorem test_bitlen_2582299 : regAfter (small [0, 0, 2582299]) (.bitlen 1 2) 1 = some 22#32 := by decide
theorem test_bitlen_zero_same_register : regAfter (small [0]) (.bitlen 0 0) 0 = some 0#32 := by decide
theorem test_clz_2582299 : regAfter (small [0, 0, 2582299]) (.clz 3 2) 3 = some 10#32 := by decide
theorem test_clz_zero : regAfter (small []) (.clz 3 2) 3 = some 32#32 := by decide
theorem test_modmul_full_width :
    regAfter (small [0, 0xFFFFFFFF, 0xFFFFFFFF, 0xFFFFFFFE]) (.modmul 4 1 2 3) 4 = some 1#32 := by decide
theorem test_modred_high_word_first : regAfter (small [0, 1, 0, 7]) (.modred 4 1 2 3) 4 = some 4#32 := by decide
theorem test_modred_wide :
    regAfter (small [0, 0x12345678, 0x9ABCDEF0, 0x0027671B]) (.modred 4 1 2 3) 4 = some 0x001025F8#32 := by decide
theorem test_modexp_497 : regAfter (small [0, 4, 13, 497]) (.modexp 1 1 2 3) 1 = some 445#32 := by decide
theorem test_modexp_zero_exponent_modulus_one :
    regAfter (small [0, 5, 0, 1]) (.modexp 4 1 2 3) 4 = some 0#32 := by decide
theorem test_modinv_2579080 : regAfter (small [0, 3, 2579080]) (.modinv 5 1 2) 5 = some 1719387#32 := by decide
/-- L2.7, first table: `BUF[0..3] = 44 33 22 11`, width 12 at cursor 4. -/
theorem test_rdbits_across_bytes :
    ((after { small [0, 12] [0x44, 0x33, 0x22, 0x11] with rcur := 4 } (.rdbits 3 1)).map
      fun t => (t.reg 3, t.rcur)) = some (0x00000334#32, 16#32) := by decide
/-- L2.7, second table: five bytes touched. -/
theorem test_wrbits_five_bytes :
    ((after { small [0, 0xFFFFFFFF, 32] [0, 0, 0, 0, 0, 0] with wcur := 7 } (.wrbits 1 2)).map
      fun t => ((List.range 6).map t.bufByte, t.wcur)) =
      some ([0x80#8, 0xFF#8, 0xFF#8, 0xFF#8, 0x7F#8, 0x00#8], 39#32) := by decide
theorem test_wrbits_ors :
    ((after (small [0, 0x5, 4] [0xF0]) (.wrbits 1 2)).map fun t => (t.bufByte 0, t.wcur)) =
      some (0xF5#8, 4#32) := by decide

/-! ### Errors (L2.3, L2.6, L2.7) -/

theorem test_modmul_zero_modulus : statusAfter (small [0, 5, 3, 0]) (.modmul 4 1 2 3) = some 0x00000206#32 := by decide
theorem test_modinv_modulus_one : statusAfter (small [0, 5, 1]) (.modinv 4 1 2) = some 0x00000306#32 := by decide
theorem test_rdbits_bounds_no_wrap :
    statusAfter { small [0, 0, 1] with rcur := 0xFFFFFFF0 } (.rdbits 4 2) = some 0x00000506#32 := by decide

/-! ### Lifecycle (L2.9) -/

/-- An illegal word by the bus, then the engine: STATUS 0x106, ERRCMD and `irq`. -/
theorem test_lifecycle_illegal :
    ((stepN 2 { small [] with ie := true, inputs := [.bus (hostWrite .cmd 0x000000FF)] }).map
      fun t => (t.statusWord, t.errcmd, t.cmd, t.irq)) = some (0x00000106#32, 0xFF#32, 0xFF#32, true) := by decide

/-- `HW X1, 6` before the completion is dropped and sets OVR; X4 is 15 mod 7. -/
theorem test_lifecycle_overrun :
    ((stepN 3 { small [0, 5, 3, 7] with inputs := [.bus (issueReq (.modmul 4 1 2 3)), .bus (hostWrite (.x 1) 6)] }).map
      fun t => (t.statusWord, t.reg 1, t.reg 4)) = some (0x0000000A#32, 5#32, 1#32) := by decide

/-- `HW X1, 6` after the completion is accepted; X4 is the same. -/
theorem test_lifecycle_completion_first :
    ((stepN 3 { small [0, 5, 3, 7] with
        inputs := [.bus (issueReq (.modmul 4 1 2 3)), .engine, .bus (hostWrite (.x 1) 6)] }).map
      fun t => (t.statusWord, t.reg 1, t.reg 4)) = some (0x00000002#32, 6#32, 1#32) := by decide

/-- Soft reset of a busy block: the aborted WRBITS wrote nothing. -/
theorem test_lifecycle_abort :
    ((stepN 2 { small [0, 0xFF, 8] [0x21] with
        inputs := [.bus (issueReq (.wrbits 1 2)), .bus (hostWrite .ctrl 2)] }).map
      fun t => (t.statusWord, t.cmd, t.reg 1, t.bufByte 0)) = some (0#32, 0#32, 0#32, 0x21#8) := by decide

/-- P5 step 2: a second error while ERR = 1 keeps the first one's ERRCODE and ERRCMD. -/
theorem test_first_error_kept :
    ((stepFrom { (small []).issue 0x01000000#32 with err := true, errcode := 1, errcmd := 0xFF }).map
      fun t => (t.statusWord, t.errcmd, t.cmd)) = some (0x00000106#32, 0xFF#32, 0x01000000#32) := by decide

/-! ### The bus (L2.8) -/

theorem test_read_id : (small []).answer (hostRead .id) = .readOk 0x52534301#32 := by decide
theorem test_read_bufsize : State.reset.answer (hostRead .bufsize) = .readOk 0x00001000#32 := by decide
theorem test_read_half_status : (small []).answer ⟨.read, 0x08#17, .half, 0⟩ = ⟨.busErr, some 0#32⟩ := by decide
theorem test_read_window_half :
    (small [] [0x44, 0x33, 0x22, 0x11]).answer (hostReadBuf 2 .half) = .readOk 0x00001122#32 := by decide
theorem test_write_window_word :
    (((small []).hostStep (hostWriteBuf 0 0x11223344)).bufByte 0, ((small []).hostStep (hostWriteBuf 0 0x11223344)).bufByte 3)
      = (0x44#8, 0x11#8) := by decide
theorem test_read_window_misaligned : (small []).answer (hostReadBuf 1 .half) = .busErr := by decide

/-! ### What the host runs: a word placed where `step` runs it -/

theorem test_withFetchWord :
    ((stepFrom ((small [0, 7, 9, 10]).withFetchWord 32 0x00321410)).map fun t => t.reg 4) = some 3#32 := by decide

/-! ### Witnesses: hypotheses of the statements are met -/

/-- An idle block with operands for every command: X1 = 7, X2 = 9, X3 = 10, X4 = 8. -/
def ready : State := small [0, 7, 9, 10, 8]

theorem witness_StepRunsDecodedCommand :
    (ready.issued (.modmul 4 1 2 3)).inflight = some ⟨0x00321410#32, ⟨7, 9, 10, 0, 0⟩⟩ ∧
      decode 0x00321410#32 = .command (.modmul 4 1 2 3) ∧ (ready.issued (.modmul 4 1 2 3)).inputs = [] := by decide
theorem witness_StepRunsDecodedCommand_engine :
    (ready.withCommand 0x00321410#32).inflight = some ⟨0x00321410#32, ⟨7, 9, 10, 0, 0⟩⟩ ∧
      (ready.withCommand 0x00321410#32).inputs = [.engine] := by decide
theorem witness_EncodeOfDecode : decode 0x00F0FF30#32 = .illegal .unusedField ∧ decode 0x0000FF30#32 = .command (.rdbits 15 15) := by
  decide
theorem witness_IllegalWordCompletesWithIllegal :
    (ready.issue 0xFF#32).inflight = some ⟨0xFF#32, ready.captureOps 0xFF#32⟩ ∧ decode 0xFF#32 = .illegal .reservedOpcode ∧
      (ready.issue 0xFF#32).inputs = [] := by decide
theorem witness_RowsMatchDisjointWords : OpcodeRow.Matches ⟨"NOP", 0#32, 0xFFFFFFFF#32⟩ 0#32 ∧
    (⟨"NOP", 0#32, 0xFFFFFFFF#32⟩ : OpcodeRow) ∈ opcodeTable := by decide
theorem witness_IdleBlockRetainsState : ready.busy = false ∧ ready.inputs = [] := by decide
theorem witness_StepTakesListedEvent :
    { ready with inputs := [.bus (hostRead .id)] }.inputs = .bus (hostRead .id) :: [] ∧
      { ready with inputs := [.hardReset] }.inputs = .hardReset :: [] := by decide
theorem witness_IssueThenEngineExecutes :
    { ready with inputs := [.bus (issueReq .nop), .engine] }.busy = false ∧
      { ready with inputs := [.bus (issueReq .nop), .engine] }.inputs = .bus (issueReq .nop) :: .engine :: [] := by decide
theorem witness_idle : ready.busy = false := by decide
theorem witness_busy : (ready.issued .nop).busy = true := by decide
theorem witness_BusyProtectedWritesAreDropped :
    (ready.issued .nop).busy = true ∧ (hostWrite (.x 15) 1).wellPlaced = true ∧
      targetOf 16 (hostWrite (.x 15) 1).off = .reg (.x 15) ∧ (hostWriteBuf 15 1 .byte).wellPlaced = true ∧
      targetOf 16 (hostWriteBuf 15 1 .byte).off = .byte 15 := by decide
theorem witness_BusyProtectedWritesAreDropped_registers :
    targetOf 16 (hostWrite .cmd 1).off = .reg .cmd ∧ targetOf 16 (hostWrite .rcur 1).off = .reg .rcur ∧
      targetOf 16 (hostWrite .wcur 1).off = .reg .wcur ∧ targetOf 16 (hostWrite (.x 0) 1).off = .reg (.x 0) := by decide
theorem witness_UnprotectedWritesNeverSetOvr :
    targetOf 16 (hostWrite .errcmd 1).off = .reg .errcmd ∧ targetOf 16 0x00020#17 = .reserved ∧
      targetOf 16 0x0003C#17 = .reserved ∧ targetOf 16 0x00080#17 = .reserved ∧ targetOf 16 0x0FFFC#17 = .reserved ∧
      targetOf 16 (windowOffset 16) = .beyondBuf ∧ ready.ovr = false := by decide
theorem witness_BusyHostStepsKeepOperands : (ready.issued .nop).busy = true ∧ ¬ (hostWrite .ctrl 1).softResets :=
  ⟨by decide, fun h => absurd h.2.2.2 (by decide)⟩
theorem witness_RegisterRegionAccesses :
    (0x0FFFC#17).toNat < 0x10000 ∧ (0x0FFFE#17).toNat % 4 ≠ 0 ∧ (0x0FFFC#17).toNat % 4 = 0 := by decide
theorem witness_WindowAccesses :
    0x10000 ≤ (0x1FFFC#17).toNat ∧ (0x1FFFC#17).toNat % AccessSize.word.bytes = 0 ∧
      (0x10001#17).toNat % AccessSize.half.bytes ≠ 0 ∧ ready.cfg.Legal ∧ (windowOffset 12).toNat - 0x10000 < ready.cfg.bufBytes := by
  decide
theorem witness_CtrlWrites : (1#32).getLsbD 1 = false ∧ (3#32).getLsbD 1 = true := by decide
theorem witness_HardResetValues : State.reset = State.reset ∧ ready.hardReset = ready.hardReset := ⟨rfl, rfl⟩
theorem witness_NopCompletes : (0x100#32).extractLsb' 0 8 = 0#8 ∧ 0x100#32 ≠ 0#32 := by decide
theorem witness_ReservedOffsets :
    ((0x00020#17).toNat % 4 = 0 ∧ 0x20 ≤ (0x00020#17).toNat ∧ (0x0003C#17).toNat < 0x40) ∧
      ((0x00080#17).toNat % 4 = 0 ∧ 0x80 ≤ (0x00080#17).toNat ∧ (0x0FFFC#17).toNat < 0x10000) := by decide
theorem witness_WindowBeyondBuf :
    0x10000 + ready.cfg.bufBytes ≤ (windowOffset 16).toNat ∧ (windowOffset 16).toNat % AccessSize.word.bytes = 0 := by decide
theorem witness_WindowIsLittleEndian :
    ready.cfg.Legal ∧ 12 < ready.cfg.bufBytes ∧ 12 % AccessSize.word.bytes = 0 ∧ ready.busy = false := by decide
theorem witness_ReadsHaveNoEffect :
    (hostRead .status).kind = .read ∧ (hostWrite .ctrl 2).kind = .write ∧ (hostWrite .ctrl 2).off ≠ RegName.cmd.offset := by
  decide
theorem witness_modulus : ready.reg 3 ≠ 0#32 ∧ ready.reg 5 = 0#32 := by decide
/-- p = 3, q = 5: n = 15, e = d = 3, a = 7. -/
theorem witness_RsaLaw :
    Nat.Prime 3 ∧ Nat.Prime 5 ∧ 3 ≠ 5 ∧ (4 : Reg) ≠ 2 ∧ (4 : Reg) ≠ 3 ∧ ((small [7, 3, 3, 15]).reg 3).toNat = 3 * 5 ∧
      ((small [7, 3, 3, 15]).reg 0).toNat < 3 * 5 ∧
      ((small [7, 3, 3, 15]).reg 1).toNat * ((small [7, 3, 3, 15]).reg 2).toNat ≡ 1 [MOD (3 - 1) * (5 - 1)] := by
  refine ⟨by norm_num, by norm_num, by decide, by decide, by decide, by decide, by decide, by decide⟩
theorem witness_ModmulAgreesWithModred :
    (ready.reg 3 ≠ 0#32) ∧ ((small [0, 0, 63, 10]).reg 3 = ready.reg 3) ∧
      ((small [0, 0, 63, 10]).reg 1).toNat = (ready.reg 1).toNat * (ready.reg 2).toNat / 2 ^ 32 ∧
      ((small [0, 0, 63, 10]).reg 2).toNat = (ready.reg 1).toNat * (ready.reg 2).toNat % 2 ^ 32 := by decide
theorem witness_ModinvResult :
    1 < ((small [0, 3, 2]).reg 2).toNat ∧ Nat.gcd ((small [0, 3, 2]).reg 1).toNat ((small [0, 3, 2]).reg 2).toNat = 1 ∧
      Nat.gcd ((small [0, 4, 2]).reg 1).toNat ((small [0, 4, 2]).reg 2).toNat ≠ 1 ∧
      ((small [0, 4, 1]).reg 2).toNat ≤ 1 := by decide
theorem witness_RdbitsResult :
    ready.cfg.Legal ∧ { small [0, 32] with rcur := 96 }.FieldFits 96 32 ∧
      { small [0, 0] with rcur := 0xFFFFFFFF }.FieldFits 0xFFFFFFFF 0 ∧
      32 < ((small [0, 33]).reg 1).toNat ∧
      8 * (small [0, 32]).cfg.bufBytes < (97#32).toNat + ((small [0, 32]).reg 1).toNat := by
  refine ⟨by decide, ⟨by decide, fun _ => by decide⟩, ⟨by decide, fun h => absurd h (by decide)⟩, by decide, by decide⟩
theorem witness_WrbitsResult : ready.cfg.Legal ∧ { small [0, 1, 1] with wcur := 127 }.FieldFits 127 1 ∧
    32 < ((small [0, 1, 33]).reg 2).toNat ∧
    8 * (small [0, 1, 1]).cfg.bufBytes < (128#32).toNat + ((small [0, 1, 1]).reg 2).toNat :=
  ⟨by decide, ⟨by decide, fun _ => by decide⟩, by decide, by decide⟩
theorem witness_HostWordsAgreeWithFields :
    ready.cfg.Legal ∧ 12 + 4 ≤ ready.cfg.bufBytes ∧ { small [0, 32, 8] with rcur := 96 }.rcur.toNat = 8 * 12 ∧
      (small [0, 32, 8]).reg 1 = 32#32 ∧ (small [0, 32, 8]).reg 2 = 8#32 := by decide
/-- Two fields of widths 3 and 5 fill the zeroed last byte of BUF. -/
theorem witness_PackingRoundTrip :
    let s := { small [] (List.replicate 16 0) with rcur := 120, wcur := 120 }
    let fields : List (Word × Word) := [(5, 3), (0xFF, 5)]
    s.cfg.Legal ∧ s.wcur = s.rcur ∧ (∀ vw ∈ fields, vw.2.toNat ≤ 32) ∧
      s.rcur.toNat + (fields.map fun vw => vw.2.toNat).sum ≤ 8 * s.cfg.bufBytes ∧
      (∀ k < 8, s.bufBit (120 + k) = false) := by
  refine ⟨by decide, by decide, by simp, by decide, by decide⟩
theorem witness_ZeroModulusFails :
    (small [0, 1, 1, 0]).captureOps 0x00321410#32 = ⟨1, 1, 0, 0, 0⟩ ∧
      ((small [0, 1, 1, 0]).issue 0x00321410#32).inflight = some ⟨0x00321410#32, ⟨1, 1, 0, 0, 0⟩⟩ := by decide
theorem witness_SmallInverseModulusFails :
    ((small [0, 5, 1]).issue 0x00021420#32).inflight = some ⟨0x00021420#32, ⟨5, 1, 0, 0, 0⟩⟩ ∧ (1#32).toNat ≤ 1 := by decide
theorem witness_WideFieldFails :
    ((small [0, 33, 33]).issue 0x00001330#32).inflight = some ⟨0x00001330#32, ⟨33, 0, 0, 0, 0⟩⟩ ∧
      ((small [0, 33, 33]).issue 0x00021031#32).inflight = some ⟨0x00021031#32, ⟨33, 33, 0, 0, 0⟩⟩ ∧
      32 < (33#32).toNat := by decide
theorem witness_FieldPastBufFails :
    ({ small [0, 32] with rcur := 97 }.issue 0x00001330#32).inflight = some ⟨0x00001330#32, ⟨32, 0, 0, 97, 0⟩⟩ ∧
      8 * ready.cfg.bufBytes < (97#32).toNat + (32#32).toNat ∧ ¬ 8 * ready.cfg.bufBytes < (96#32).toNat + (32#32).toNat := by
  decide
theorem witness_exec_next : (after ready (.modmul 4 1 2 3)).isSome = true ∧ (after ready (.wrbits 1 4)).isSome = true ∧
    (after ready (.rdbits 1 4)).isSome = true := by decide
theorem witness_ResultsIndependentOfFlags :
    (nextState? (exec (.modmul 4 1 2 3) { ready.issued (.modmul 4 1 2 3) with ie := true, err := true, errcode := 5 })).isSome = true := by
  decide
theorem witness_StepKeepsInvariant : (ready.issued .nop).Inv where
  bufCanonical := rfl
  bufInRange := by simp [State.issued, State.issue, ready, small]
  cfgLegal := by decide
  noErrorRecorded := by decide
  errorRecorded := by decide
  inflightCmd := by simp [State.issued, State.issue]
  inflightOps := by simp [State.issued, State.issue, State.captureOps, State.reg]
  busyNotDone := by simp [State.issued, State.issue]
theorem witness_StepKeepsInvariant_next : (stepFrom (ready.issued .nop)).isSome = true := by decide
theorem witness_BusyBlockCompletes :
    { ready.issued .nop with inputs := [.bus (hostRead .status)] }.busy = true ∧
      ∀ e ∈ { ready.issued .nop with inputs := [.bus (hostRead .status)] }.inputs, ¬ e.Resets := by
  refine ⟨by decide, fun e he => ?_⟩
  simp only [List.mem_singleton] at he
  subst he
  exact fun h => absurd h.1 (by decide)

end Sys2Proof.Tests
end

section
/-! PROOFS. The scope statements: the event a step takes (00_scope.md R10, 10_state.md R21) and the aperture's addresses
(00_scope.md R9, 10_state.md R25). -/

namespace Sys2Proof.Machine

/-! ### The listed event -/

theorem step_bus {s : State} {t : BusReq} {rest : List Event} (h : s.inputs = .bus t :: rest) :
    step s = .next (State.hostStep { s with inputs := rest } t) :=
  step_cons s h

theorem step_hardReset {s : State} {rest : List Event} (h : s.inputs = .hardReset :: rest) :
    step s = .next (State.hardReset { s with inputs := rest }) :=
  step_cons s h

/-- Settles O11: each clause is the step of a state that lists such an event. -/
theorem stepTakesListedEvent : Obligations.StepTakesListedEvent :=
  fun _ _ => ⟨fun _ => step_bus, step_hardReset⟩

/-! ### The aperture's addresses -/

/-- An offset is below the aperture's size, so a host address has the aperture's slot as its quotient (R25). -/
theorem hostAddress_div_apertureBytes (off : BitVec 17) :
    hostAddress off / Config.apertureBytes = Config.baseIndex := by
  have hoff : off.toNat < 0x20000 := off.isLt
  simp only [hostAddress, Config.apertureBytes]
  omega

theorem hostAddress_mod_apertureBytes (off : BitVec 17) :
    hostAddress off % Config.apertureBytes = off.toNat := by
  have hoff : off.toNat < 0x20000 := off.isLt
  simp only [hostAddress, Config.apertureBytes]
  omega

theorem apertureOffset?_hostAddress (off : BitVec 17) : apertureOffset? (hostAddress off) = some off := by
  simp [apertureOffset?, hostAddress_div_apertureBytes, hostAddress_mod_apertureBytes]

/-- An address with an offset lies in the aperture's slot, and quotient and remainder give it back. -/
theorem hostAddress_of_apertureOffset? {addr : Nat} {off : BitVec 17} (h : apertureOffset? addr = some off) :
    hostAddress off = addr := by
  unfold apertureOffset? at h
  split at h
  case isTrue hslot =>
    obtain rfl : BitVec.ofNat 17 (addr % Config.apertureBytes) = off := Option.some.inj h
    have hmod : addr % Config.apertureBytes % 2 ^ 17 = addr % Config.apertureBytes := Nat.mod_mod addr (2 ^ 17)
    rw [hostAddress, BitVec.toNat_ofNat, hmod, ← hslot, Nat.div_add_mod']
  case isFalse => cases h

/-- BASE is a multiple of the aperture's size (R9). -/
theorem hostAddress_zero_aligned : hostAddress 0#17 % 0x20000 = 0 := by
  simpa [Config.apertureBytes] using hostAddress_mod_apertureBytes 0#17

/-- Settles O29: the two maps are inverse to each other, and offset 0 is at an aligned BASE. -/
theorem apertureAddresses : Obligations.ApertureAddresses :=
  ⟨apertureOffset?_hostAddress, fun _ _ => hostAddress_of_apertureOffset?, hostAddress_zero_aligned⟩

end Sys2Proof.Machine
end

section
/-! PROOFS. What a transaction, the engine's turn and a step can do, each said once: the lemmas the statements on the
state's invariant, frames and reads are proved from. -/

namespace Sys2Proof.Machine

variable (s : State)

/-! ### STATUS and CTRL writes -/

/-- The write-one-to-clear effect as one update (10_state.md R32). -/
theorem State.writeStatus_eq (w : Word) :
    s.writeStatus w =
      { s with
        done := s.done && !w.getLsbD 1
        err := s.err && !w.getLsbD 2
        ovr := s.ovr && !w.getLsbD 3
        errcode := if w.getLsbD 2 then 0#4 else s.errcode
        errcmd := if w.getLsbD 2 then 0#32 else s.errcmd } := by
  unfold State.writeStatus State.clearErr w1c
  cases w.getLsbD 2 <;> simp

theorem State.writeCtrl_softReset {w : Word} (h : w.getLsbD 1 = true) : s.writeCtrl w = s.softReset :=
  if_pos h

theorem State.writeCtrl_ie {w : Word} (h : w.getLsbD 1 = false) : s.writeCtrl w = { s with ie := w.getLsbD 0 } := by
  rw [State.writeCtrl, h, if_neg Bool.false_ne_true]

/-! ### Transactions -/

/-- A transaction has an effect only if it is a well-placed WRITE (10_state.md R21, 20_memory.md R71). -/
theorem State.busEffect_cases (t : BusReq) :
    s.busEffect t = s ∨ (t.kind = .write ∧ t.wellPlaced = true ∧ s.busEffect t = s.busWrite t) := by
  unfold State.busEffect
  split
  case isTrue hp =>
    cases hk : t.kind with
    | read => exact .inl rfl
    | write => exact .inr ⟨rfl, hp, rfl⟩
  case isFalse => exact .inl rfl

/-- An access in the register region that is not refused is 4 bytes wide (20_memory.md R66). -/
theorem BusReq.size_eq_word_of_register {t : BusReq} {r : RegName} (hp : t.wellPlaced = true)
    (ho : t.off = r.offset) : t.size = .word := by
  have hr : r.offset.toNat < windowBase := by
    cases r with
    | x i => rw [toNat_offset_x, windowBase]; omega
    | _ => simp [RegName.offset, windowBase]
  rw [BusReq.wellPlaced, ho, if_pos hr] at hp
  simp only [Bool.and_eq_true, beq_iff_eq] at hp
  exact hp.1

/-- A well-placed WRITE to CTRL that is no soft reset has bit 1 = 0 (10_state.md R31). -/
theorem BusReq.getLsbD_one_of_not_softResets {t : BusReq} {n : Nat} (hn : ¬ t.softResets) (hk : t.kind = .write)
    (hp : t.wellPlaced = true) (ht : targetOf n t.off = .reg .ctrl) : t.wdata.getLsbD 1 = false := by
  have ho := offset_of_targetOf ht
  have hsize := BusReq.size_eq_word_of_register hp ho
  by_contra h
  exact hn ⟨hk, hsize, ho, by simpa using h⟩

/-- An offset that names BUF byte `a` is `0x10000 + a` (10_state.md R26). -/
theorem toNat_off_of_targetOf_byte {n a : Nat} {off : BitVec 17} (h : targetOf n off = .byte a) :
    off.toNat = windowBase + a ∧ a < n := by
  unfold targetOf at h
  split at h
  · split at h <;> cases h
  · split at h
    · have := Target.byte.inj h
      omega
    · cases h

/-- A well-placed access that starts in BUF ends in BUF (20_memory.md R67). -/
theorem access_ends_in_buf {t : BusReq} {c : Config} {a : Nat} (hc : c.Legal) (hp : t.wellPlaced = true)
    (ht : targetOf c.bufBytes t.off = .byte a) : a + t.size.bytes ≤ c.bufBytes := by
  obtain ⟨hoff, ha⟩ := toNat_off_of_targetOf_byte ht
  obtain ⟨hmul, -, -⟩ := hc
  have halign : (windowBase + a) % t.size.bytes = 0 := by
    rw [BusReq.wellPlaced, hoff, if_neg (by omega)] at hp
    simpa using hp
  cases hs : t.size <;> simp only [hs, AccessSize.bytes, windowBase] at halign ⊢ <;> omega

/-- While BUSY = 1 the only changes a WRITE that is no soft reset makes are to CTRL.IE, the flags and the error record
(10_state.md R31, R32, R39). -/
theorem State.busWrite_busy_eq {t : BusReq} (hb : s.busy = true) (hn : ¬ t.softResets) (hk : t.kind = .write)
    (hp : t.wellPlaced = true) :
    s.busWrite t =
      { s with
        ie := (s.busWrite t).ie
        done := (s.busWrite t).done
        err := (s.busWrite t).err
        ovr := (s.busWrite t).ovr
        errcode := (s.busWrite t).errcode
        errcmd := (s.busWrite t).errcmd } := by
  cases ht : targetOf s.cfg.bufBytes t.off with
  | reg r =>
    simp only [State.busWrite, ht]
    cases r with
    | ctrl => simp only [State.writeRegister,
        s.writeCtrl_ie (BusReq.getLsbD_one_of_not_softResets hn hk hp ht)]
    | status => simp only [State.writeRegister, State.writeStatus_eq]
    | id | bufsize | errcmd => rfl
    | cmd | rcur | wcur | x i => simp only [State.writeRegister, State.busyProtected_busy _ hb]
  | byte a => simp only [State.busWrite, ht, State.busyProtected_busy _ hb]
  | reserved | beyondBuf => simp only [State.busWrite, ht]

/-- `State.busWrite_busy_eq` for every transaction, with the record of the answer (log 7). -/
theorem State.hostStep_busy_eq {t : BusReq} (hb : s.busy = true) (hn : ¬ t.softResets) :
    s.hostStep t =
      { s with
        ie := (s.hostStep t).ie
        done := (s.hostStep t).done
        err := (s.hostStep t).err
        ovr := (s.hostStep t).ovr
        errcode := (s.hostStep t).errcode
        errcmd := (s.hostStep t).errcmd
        rsp := (s.hostStep t).rsp } := by
  unfold State.hostStep
  rcases s.busEffect_cases t with he | ⟨hk, hp, he⟩
  · rw [he]
  · rw [he, s.busWrite_busy_eq hb hn hk hp]

/-! ### Commands -/

theorem State.checkField_eq_ok {c w : Nat} {upd u : Update} (h : s.checkField c w upd = .ok u) :
    s.FieldFits c w ∧ u = upd := by
  unfold State.checkField State.bufBits at h
  split at h
  · cases h
  · split at h
    · cases h
    · cases h
      exact ⟨⟨by omega, by omega⟩, rfl⟩

theorem residueResult_eq_ok {rd : Reg} {n : Word} {v : Nat} {u : Update} (h : residueResult rd n v = .ok u) :
    ∃ x, u = { reg := some (rd, x) } := by
  unfold residueResult at h
  split at h <;> cases h
  exact ⟨_, rfl⟩

/-- The update of a command that completes without error (40_command_lifecycle.md R114): NOP's is empty, RDBITS and WRBITS
move their cursor, and every other command writes its destination and nothing else. -/
theorem execResult_eq_ok {i : Instr} {ops : Operands} {u : Update} (h : execResult i s ops = .ok u) :
    (i = .nop ∧ u = {}) ∨
    (∃ rd v, destination i = some rd ∧ u = { reg := some (rd, v) }) ∨
    (∃ rd rs1 v, i = .rdbits rd rs1 ∧ u = { reg := some (rd, v), rcur := some (ops.rc + ops.s1) }) ∨
    (∃ rs1 rs2, i = .wrbits rs1 rs2 ∧ s.FieldFits ops.wc.toNat ops.s2.toNat ∧
      u = { setBits := fieldOnes ops.s1 ops.wc.toNat ops.s2.toNat, wcur := some (ops.wc + ops.s2) }) := by
  cases i with
  | nop =>
    cases h
    exact .inl ⟨rfl, rfl⟩
  | bitlen rd rs1 | clz rd rs1 =>
    cases h
    exact .inr (.inl ⟨rd, _, rfl, rfl⟩)
  | modmul rd rs1 rs2 rs3 | modred rd rs1 rs2 rs3 =>
    obtain ⟨v, hu⟩ := residueResult_eq_ok h
    exact .inr (.inl ⟨rd, v, rfl, hu⟩)
  | modexp rd rs1 rs2 rs3 =>
    simp only [execResult, modexpResult] at h
    split at h <;> cases h
    exact .inr (.inl ⟨rd, _, rfl, rfl⟩)
  | modinv rd rs1 rs2 =>
    simp only [execResult, modinvResult] at h
    split at h <;> cases h
    exact .inr (.inl ⟨rd, _, rfl, rfl⟩)
  | rdbits rd rs1 =>
    obtain ⟨-, hu⟩ := s.checkField_eq_ok h
    exact .inr (.inr (.inl ⟨rd, rs1, _, rfl, hu⟩))
  | wrbits rs1 rs2 =>
    obtain ⟨hfit, hu⟩ := s.checkField_eq_ok h
    exact .inr (.inr (.inr ⟨rs1, rs2, rfl, hfit, hu⟩))

/-- Every bit a command sets lies in BUF (44_bitstream.md R172, R174). -/
theorem execResult_setBits_lt {i : Instr} {ops : Operands} {u : Update} (h : execResult i s ops = .ok u) :
    ∀ p ∈ u.setBits, p < 8 * s.cfg.bufBytes := by
  rcases execResult_eq_ok s h with ⟨-, rfl⟩ | ⟨_, _, -, rfl⟩ | ⟨_, _, _, -, rfl⟩ | ⟨_, _, -, hfit, rfl⟩
  · simp
  · simp
  · simp
  · intro p hp
    obtain ⟨hlo, hhi, -⟩ := mem_fieldOnes.mp hp
    have := hfit.2 (by omega)
    omega

/-! ### The step -/

/-- A turn of the engine that answers `t` changed nothing, or committed the result of the command in flight, or recorded
its error (40_command_lifecycle.md R113 to R115). -/
theorem engineStep_next {t : State} (h : engineStep s = .next t) :
    t = s ∨ (∃ f i u, s.inflight = some f ∧ execResult i s f.ops = .ok u ∧ t = s.commit u) ∨
      ∃ f e, s.inflight = some f ∧ t = s.errorCompletion f.cw e := by
  rcases engineStep_cases s with ⟨-, he⟩ | ⟨f, i, hf, -, he⟩ | ⟨f, -, hf, -, he⟩
  · exact .inl (Host.Outcome.next.inj (h.symm.trans he))
  · obtain rfl := Host.Outcome.next.inj (h.symm.trans he)
    cases hr : execResult i s f.ops with
    | ok u => exact .inr (.inl ⟨f, i, u, hf, hr, rfl⟩)
    | err e => exact .inr (.inr ⟨f, e, hf, rfl⟩)
  · exact .inr (.inr ⟨f, .illegal, hf, Host.Outcome.next.inj (h.symm.trans he)⟩)

/-- What one step does, where `rest` are the events left (00_scope.md R10; log 6). -/
theorem step_next {t : State} (h : step s = .next t) :
    ∃ rest, (∃ b, t = State.hostStep { s with inputs := rest } b) ∨ t = State.hardReset { s with inputs := rest } ∨
      engineStep { s with inputs := rest } = .next t := by
  cases hin : s.inputs with
  | nil => exact ⟨s.inputs, .inr (.inr ((step_nil s hin).symm.trans h))⟩
  | cons e rest =>
    refine ⟨rest, ?_⟩
    rw [step_cons s hin] at h
    cases e with
    | bus b => exact .inl ⟨b, (Host.Outcome.next.inj h).symm⟩
    | engine => exact .inr (.inr h)
    | hardReset => exact .inr (.inl (Host.Outcome.next.inj h).symm)

end Sys2Proof.Machine
end

section
/-! PROOFS. The invariant of the state: kept by each operation, then by the host step, the engine and the step. -/

namespace Sys2Proof.Machine

variable {s : State}

/-! ### The operations -/

/-- An update of an idle block's registers and cursors alone. -/
theorem State.Inv.withRegisters (h : s.Inv) (hi : s.busy = false) (regs : Vector Word 16) (rc wc : Word) :
    { s with regs := regs, rcur := rc, wcur := wc }.Inv :=
  { h with inflightOps := by simp [s.not_busy_iff.mp hi] }

/-- An update of BUF alone that keeps the canonical form and writes in BUF. -/
theorem State.Inv.withBuf (h : s.Inv) {m : Memory} (hwf : Memory.wf m = true)
    (hin : ∀ c ∈ m, c.1 < s.cfg.bufBytes) : { s with buf := m }.Inv :=
  { h with bufCanonical := hwf, bufInRange := hin }

theorem State.Inv.memWrite (h : s.Inv) {a k : Nat} (v : Word) (hak : a + k ≤ s.cfg.bufBytes) :
    (s.memWrite a v k).Inv := by
  rw [s.memWrite_eq]
  refine h.withBuf (s.memWrite_wf h.bufCanonical a v k) fun c hc => ?_
  rcases s.mem_memWrite hc with ⟨-, hlt⟩ | hc
  · omega
  · exact h.bufInRange c hc

theorem State.Inv.setAll (h : s.Inv) {ps : List Nat} (hps : ∀ p ∈ ps, p < 8 * s.cfg.bufBytes) :
    (s.setAll ps).Inv := by
  rw [s.setAll_eq]
  refine h.withBuf (s.setAll_wf h.bufCanonical ps) fun c hc => ?_
  rcases s.mem_setAll hc with ⟨p, hp, hcp⟩ | hc
  · have := hps p hp
    omega
  · exact h.bufInRange c hc

theorem State.Inv.issue (h : s.Inv) (cw : Word) : (s.issue cw).Inv :=
  { h with
    inflightCmd := fun _ hf => by cases hf; rfl
    inflightOps := fun _ hf => by cases hf; rfl
    busyNotDone := fun _ _ => rfl }

theorem State.Inv.softReset (h : s.Inv) : s.softReset.Inv :=
  { h with
    noErrorRecorded := fun _ => ⟨rfl, rfl⟩
    errorRecorded := by simp
    inflightCmd := by simp
    inflightOps := by simp
    busyNotDone := by simp }

/-- A hard reset keeps only the configuration. -/
theorem State.Inv.hardReset (hc : s.cfg.Legal) : s.hardReset.Inv where
  bufCanonical := rfl
  bufInRange := by simp
  cfgLegal := hc
  noErrorRecorded _ := ⟨rfl, rfl⟩
  errorRecorded := by simp
  inflightCmd := by simp
  inflightOps := by simp
  busyNotDone := by simp

/-- Clearing ERR clears the error record with it (10_state.md R32). -/
theorem State.Inv.writeStatus (h : s.Inv) (w : Word) : (s.writeStatus w).Inv := by
  rw [s.writeStatus_eq]
  exact
    { h with
      noErrorRecorded := fun he => by
        cases hw : w.getLsbD 2 with
        | true => exact ⟨rfl, rfl⟩
        | false => exact h.noErrorRecorded (by simpa only [hw, Bool.not_false, Bool.and_true] using he)
      errorRecorded := fun he => by
        simp only [Bool.and_eq_true, Bool.not_eq_true'] at he
        obtain ⟨herr, hw⟩ := he
        simpa only [hw, Bool.false_eq_true, if_false] using h.errorRecorded herr
      busyNotDone := fun f hf => by simp [h.busyNotDone f hf] }

theorem State.Inv.writeCtrl (h : s.Inv) (w : Word) : (s.writeCtrl w).Inv := by
  cases hw : w.getLsbD 1 with
  | true =>
    rw [s.writeCtrl_softReset hw]
    exact h.softReset
  | false =>
    rw [s.writeCtrl_ie hw]
    exact { h with }

theorem State.Inv.commit (h : s.Inv) {u : Update} (hu : ∀ p ∈ u.setBits, p < 8 * s.cfg.bufBytes) :
    (s.commit u).Inv :=
  { h with
    bufCanonical := (h.setAll hu).bufCanonical
    bufInRange := fun c hc => by
      have := (h.setAll hu).bufInRange c hc
      rwa [s.setAll_eq] at this
    inflightCmd := by simp
    inflightOps := by simp
    busyNotDone := by simp }

/-- The codes of R200. -/
theorem ErrCode.value_range (e : ErrCode) : 1 ≤ e.value.toNat ∧ e.value.toNat ≤ 5 := by
  cases e <;> decide

/-- The code recorded is the new one, or the one already there (60_exceptions.md R206). -/
theorem State.Inv.errorCompletion (h : s.Inv) (cw : Word) (e : ErrCode) : (s.errorCompletion cw e).Inv :=
  { h with
    noErrorRecorded := by simp
    errorRecorded := fun _ => by
      rw [State.errorCompletion_errcode, State.keptErrcode]
      split
      case isTrue herr => exact h.errorRecorded herr
      case isFalse => exact e.value_range
    inflightCmd := by simp
    inflightOps := by simp
    busyNotDone := by simp }

/-! ### The host step -/

theorem State.Inv.busyProtected (h : s.Inv) {write : State → State} (hw : s.busy = false → (write s).Inv) :
    (s.busyProtected write).Inv := by
  cases hb : s.busy with
  | true =>
    rw [s.busyProtected_busy hb]
    exact { h with }
  | false =>
    rw [s.busyProtected_idle hb]
    exact hw hb

theorem State.Inv.writeRegister (h : s.Inv) (w : Word) (r : RegName) : (s.writeRegister w r).Inv := by
  cases r with
  | id | bufsize | errcmd => exact h
  | ctrl => exact h.writeCtrl w
  | status => exact h.writeStatus w
  | cmd =>
    simp only [State.writeRegister]
    exact h.busyProtected fun _ => h.issue w
  | rcur | wcur | x i =>
    simp only [State.writeRegister]
    exact h.busyProtected fun hi => h.withRegisters hi _ _ _

theorem State.Inv.busWrite (h : s.Inv) {t : BusReq} (hp : t.wellPlaced = true) : (s.busWrite t).Inv := by
  cases ht : targetOf s.cfg.bufBytes t.off with
  | reg r =>
    simp only [State.busWrite, ht]
    exact h.writeRegister t.wdata r
  | byte a =>
    simp only [State.busWrite, ht]
    exact h.busyProtected fun _ => h.memWrite t.wdata (access_ends_in_buf h.cfgLegal hp ht)
  | reserved | beyondBuf =>
    simp only [State.busWrite, ht]
    exact h

theorem State.Inv.hostStep (h : s.Inv) (t : BusReq) : (s.hostStep t).Inv := by
  have he : (s.busEffect t).Inv := by
    rcases s.busEffect_cases t with he | ⟨-, hp, he⟩
    · rwa [he]
    · rw [he]
      exact h.busWrite hp
  exact { he with }

/-! ### The engine and the step -/

theorem State.Inv.engineStep (h : s.Inv) {t : State} (ht : engineStep s = .next t) : t.Inv := by
  rcases engineStep_next s ht with rfl | ⟨f, i, u, -, hu, rfl⟩ | ⟨f, e, -, rfl⟩
  · exact h
  · exact h.commit (execResult_setBits_lt s hu)
  · exact h.errorCompletion f.cw e

/-- Settles O58: taking an event off the list keeps the invariant, and so does the host step, the hard reset or the
engine's turn that follows. -/
theorem stepKeepsInvariant : Obligations.StepKeepsInvariant := by
  intro s t h hstep
  obtain ⟨rest, hnext⟩ := step_next s hstep
  have hrest : { s with inputs := rest }.Inv := { h with }
  rcases hnext with ⟨b, rfl⟩ | rfl | hengine
  · exact hrest.hostStep b
  · exact State.Inv.hardReset h.cfgLegal
  · exact hrest.engineStep hengine

/-- Settles O57: every clause but the one on BUF_BYTES is about a field that is 0, none or empty at reset. -/
theorem invariantAtReset : Obligations.InvariantAtReset where
  bufCanonical := rfl
  bufInRange := by simp [State.reset]
  cfgLegal := by decide
  noErrorRecorded _ := ⟨rfl, rfl⟩
  errorRecorded := by simp [State.reset]
  inflightCmd := by simp [State.reset]
  inflightOps := by simp [State.reset]
  busyNotDone := by simp [State.reset]

end Sys2Proof.Machine
end

section
/-! PROOFS. The host's view of the state: busy protection (10_state.md R39), register reads and writes, reserved offsets
and bits (R28), the resets' values (R40), and the constant configuration (R35). -/

namespace Sys2Proof.Machine

/-! ### Busy protection -/

theorem State.writeCtrl_ovr {s : State} (h : s.ovr = false) (w : Word) : (s.writeCtrl w).ovr = false := by
  cases hw : w.getLsbD 1 with
  | true => rw [s.writeCtrl_softReset hw, State.softReset_ovr]
  | false => rw [s.writeCtrl_ie hw, h]

theorem State.writeStatus_ovr {s : State} (h : s.ovr = false) (w : Word) : (s.writeStatus w).ovr = false := by
  rw [s.writeStatus_eq, h, Bool.false_and]

/-- Settles O17: of the targets left, CTRL and STATUS can only clear OVR, and the others ignore the WRITE. -/
theorem unprotectedWritesNeverSetOvr : Obligations.UnprotectedWritesNeverSetOvr := by
  intro s t hreg hbyte hovr
  rw [State.hostStep_ovr]
  rcases s.busEffect_cases t with he | ⟨-, -, he⟩
  · rw [he, hovr]
  · rw [he, State.busWrite]
    cases ht : targetOf s.cfg.bufBytes t.off with
    | reg r =>
      rcases hreg r ht with rfl | rfl | rfl | rfl | rfl
      · exact hovr
      · exact State.writeCtrl_ovr hovr t.wdata
      · exact State.writeStatus_ovr hovr t.wdata
      · exact hovr
      · exact hovr
    | byte a => exact absurd ht (hbyte a)
    | reserved | beyondBuf => exact hovr

/-- Settles O18: a transaction that is no soft reset changes only flags, the error record and the answer. -/
theorem busyHostStepsKeepOperands : Obligations.BusyHostStepsKeepOperands := by
  intro s t hb hn
  have h := s.hostStep_busy_eq hb hn
  exact ⟨by rw [h], by rw [h], State.reg_congr (by rw [h]), ⟨by rw [h], by rw [h]⟩,
    State.bufByte_congr (by rw [h]) (by rw [h])⟩

/-- Settles O19: an idle block applies the write, and the record of the answer is the only other change. -/
theorem idleRegisterWritesStore : Obligations.IdleRegisterWritesStore := by
  intro s v hb
  refine ⟨fun i => ?_, ?_, ?_⟩
  · have h : s.hostStep (hostWrite (.x i) v) = { s.setReg i v with rsp := some .writeOk } := by
      rw [s.hostStep_hostWrite, State.writeRegister, s.busyProtected_idle hb]
    rw [h]
    exact ⟨s.reg_setReg_same i v, fun _ => s.reg_setReg_other v, rfl⟩
  · rw [s.hostStep_hostWrite, State.writeRegister, s.busyProtected_idle hb]
  · rw [s.hostStep_hostWrite, State.writeRegister, s.busyProtected_idle hb]

/-! ### CTRL and STATUS as words -/

theorem State.ctrlWord_eq (s : State) : s.ctrlWord = if s.ie then 1#32 else 0#32 := by
  unfold State.ctrlWord
  cases s.ie <;> rfl

/-- The flags in bits 0 to 3 of STATUS (10_state.md R32). -/
theorem State.statusWord_flags (s : State) :
    s.statusWord.getLsbD 0 = s.busy ∧ s.statusWord.getLsbD 1 = s.done ∧ s.statusWord.getLsbD 2 = s.err ∧
      s.statusWord.getLsbD 3 = s.ovr := by
  have hbit : ∀ i, s.statusWord.getLsbD i = BitVec.getLsbD (0#20 ++ s.errcode ++ 0#4 ++ BitVec.ofBool s.ovr ++
      BitVec.ofBool s.err ++ BitVec.ofBool s.done ++ BitVec.ofBool s.busy) i := fun _ => rfl
  simp only [hbit, BitVec.getLsbD_append]
  simp

/-- Above the flags STATUS has ERRCODE in bits 11:8 and 0 elsewhere (10_state.md R32). -/
theorem State.getLsbD_statusWord_of_four_le (s : State) {i : Nat} (h : 4 ≤ i) :
    s.statusWord.getLsbD i = (decide (8 ≤ i) && s.errcode.getLsbD (i - 8)) := by
  change BitVec.getLsbD (0#20 ++ s.errcode ++ 0#4 ++ BitVec.ofBool s.ovr ++ BitVec.ofBool s.err ++
    BitVec.ofBool s.done ++ BitVec.ofBool s.busy) i = _
  obtain ⟨j, rfl⟩ := Nat.exists_eq_add_of_le' h
  simp only [BitVec.getLsbD_append]
  by_cases hlow : j < 4
  · simp [hlow, show ¬ 8 ≤ j + 4 by omega]
  · by_cases hcode : j - 4 < 4
    · simp [hlow, hcode, show 4 ≤ j by omega]
    · simp [hlow, hcode, BitVec.getLsbD_of_ge _ _ (Nat.le_of_not_lt hcode)]

/-- The other fields of STATUS as the host extracts them (10_state.md R32). -/
theorem State.statusWord_fields (s : State) :
    s.statusWord.extractLsb' 4 4 = 0#4 ∧ s.statusWord.extractLsb' 8 4 = s.errcode ∧
      s.statusWord.extractLsb' 12 20 = 0#20 := by
  refine ⟨?_, ?_, ?_⟩
  · ext i hi
    simp [s.getLsbD_statusWord_of_four_le (show 4 ≤ 4 + i by omega), show ¬ 8 ≤ 4 + i by omega]
  · ext i hi
    simp [s.getLsbD_statusWord_of_four_le (show 4 ≤ 8 + i by omega), BitVec.getLsbD_eq_getElem hi]
  · ext i hi
    simp [s.getLsbD_statusWord_of_four_le (show 4 ≤ 12 + i by omega),
      BitVec.getLsbD_of_ge s.errcode (12 + i - 8) (by omega)]

/-- The reserved bits of CTRL, 31:2, read 0 (10_state.md R28). -/
theorem State.ctrlWord_reserved (s : State) : s.ctrlWord &&& 0xFFFFFFFC#32 = 0#32 := by
  rw [s.ctrlWord_eq]
  cases s.ie <;> decide

/-- The reserved bits of STATUS, 7:4 and 31:12, read 0 (10_state.md R28): the mask in the fields of R32. -/
theorem State.statusWord_reserved (s : State) : s.statusWord &&& 0xFFFFF0F0#32 = 0#32 := by
  change (0#20 ++ s.errcode ++ 0#4 ++ BitVec.ofBool s.ovr ++ BitVec.ofBool s.err ++ BitVec.ofBool s.done ++
      BitVec.ofBool s.busy) &&& (0xFFFFF#20 ++ 0#4 ++ 0xF#4 ++ 0#1 ++ 0#1 ++ 0#1 ++ 0#1) = 0#32
  simp only [BitVec.and_append]
  simp

/-- A CTRL write depends on bits 0 and 1 of the word alone (10_state.md R28, R31). -/
theorem State.writeCtrl_masked (s : State) (w : Word) : s.writeCtrl (w &&& 0x3#32) = s.writeCtrl w := by
  simp [State.writeCtrl]

/-- A STATUS write depends on bits 1 to 3 of the word alone (10_state.md R28, R32). -/
theorem State.writeStatus_masked (s : State) (w : Word) : s.writeStatus (w &&& 0xF0F#32) = s.writeStatus w := by
  simp [State.writeStatus_eq]

/-- Settles O24: the two writes of R31, each with the record of the answer. -/
theorem ctrlWrites : Obligations.CtrlWrites := by
  intro s w
  refine ⟨rfl, ?_, fun hw => ?_, fun hw => ?_⟩
  · rw [hostRead, s.answer_register_read, State.readRegister, s.ctrlWord_eq]
  · rw [s.hostStep_hostWrite, State.writeRegister, s.writeCtrl_ie hw]
  · rw [s.hostStep_hostWrite, State.writeRegister, s.writeCtrl_softReset hw]
    exact ⟨rfl, rfl⟩

/-- Settles O23: the fields of STATUS, and its write as one update. -/
theorem statusReadAndClear : Obligations.StatusReadAndClear := by
  intro s w
  obtain ⟨hbusy, hdone, herr, hovr⟩ := s.statusWord_flags
  refine ⟨⟨s.statusWord, s.answer_register_read .status 0#32, hbusy, hdone, herr, hovr, s.statusWord_fields⟩, ?_⟩
  rw [s.hostStep_hostWrite, State.writeRegister, s.writeStatus_eq]

/-! ### Register reads -/

/-- Settles O22: each offset is that of its register, and the three read-only registers ignore a WRITE. -/
theorem registerReads : Obligations.RegisterReads := by
  intro s
  have hctrl : s.answer ⟨.read, RegName.ctrl.offset, .word, 0#32⟩ = .readOk (if s.ie then 1#32 else 0#32) := by
    rw [s.answer_register_read, State.readRegister, s.ctrlWord_eq]
  refine ⟨fun r hr w => ?_, s.answer_register_read .id 0#32, hctrl, s.answer_register_read .status 0#32,
    s.answer_register_read .cmd 0#32, s.answer_register_read .rcur 0#32, s.answer_register_read .wcur 0#32,
    s.answer_register_read .bufsize 0#32, s.answer_register_read .errcmd 0#32,
    fun i => s.answer_register_read (.x i) 0#32⟩
  rw [s.hostStep_hostWrite]
  simp only [List.mem_cons, List.not_mem_nil, or_false] at hr
  rcases hr with rfl | rfl | rfl <;> rfl

/-! ### Reserved offsets -/

/-- The reserved ranges of the map (10_state.md R25, R28). -/
theorem targetOf_reserved (n : Nat) {off : BitVec 17}
    (h : 0x20 ≤ off.toNat ∧ off.toNat < 0x40 ∨ 0x80 ≤ off.toNat ∧ off.toNat < 0x10000) :
    targetOf n off = .reserved := by
  have hlow : ∀ k < 0x20, off.toNat ≠ k := by omega
  have hx : ¬ (0x40 ≤ off.toNat ∧ off.toNat < 0x80 ∧ off.toNat % 4 = 0) := by omega
  have hnone : registerAt off.toNat = none := by simp [registerAt, hlow, hx]
  rw [targetOf, if_pos (by simp only [windowBase]; omega), hnone]

/-- A 4-byte aligned access in the register region is well placed (20_memory.md R66). -/
theorem wellPlaced_aligned_word (k : BusKind) {off : BitVec 17} (w : Word) (halign : off.toNat % 4 = 0)
    (hoff : off.toNat < 0x10000) : (BusReq.mk k off .word w).wellPlaced = true := by
  simp [BusReq.wellPlaced, windowBase, hoff, halign]

/-- Settles O25: a reserved offset names no register, and the written reserved bits reach no flag. -/
theorem reservedOffsets : Obligations.ReservedOffsets := by
  refine ⟨fun s off w halign hrange => ?_, fun s w => ?_⟩
  · have ht := targetOf_reserved s.cfg.bufBytes hrange
    have hp : ∀ k, (BusReq.mk k off .word w).wellPlaced = true :=
      fun k => wellPlaced_aligned_word k w halign (by omega)
    constructor
    · simp [State.answer, hp, State.busRead, ht]
    · simp [s.hostStep_write (hp .write) rfl, State.busWrite, ht]
  · refine ⟨s.ctrlWord_reserved, s.statusWord_reserved, ?_, ?_⟩
    · simp only [s.hostStep_hostWrite, State.writeRegister, s.writeCtrl_masked]
    · simp only [s.hostStep_hostWrite, State.writeRegister, s.writeStatus_masked]

/-! ### Hard reset and the configuration -/

/-- Settles O30: both states have the register file of zeros, and every other field at its reset value. -/
theorem hardResetValues : Obligations.HardResetValues := by
  have hzero : ∀ {u : State}, u.regs = Vector.replicate 16 0#32 → ∀ r, u.reg r = 0#32 := by
    intro u hu r
    simp [State.reg, hu]
  rintro s t (rfl | rfl) <;>
    exact ⟨hzero rfl, rfl, rfl, rfl, rfl, rfl, rfl, rfl, rfl, rfl, rfl, rfl, rfl⟩

theorem State.busyProtected_cfg {s : State} {write : State → State} (h : (write s).cfg = s.cfg) :
    (s.busyProtected write).cfg = s.cfg := by
  cases hb : s.busy with
  | true => rw [s.busyProtected_busy hb]
  | false => rw [s.busyProtected_idle hb, h]

@[simp] theorem State.writeRegister_cfg (s : State) (w : Word) (r : RegName) : (s.writeRegister w r).cfg = s.cfg := by
  cases r with
  | id | bufsize | errcmd => rfl
  | ctrl =>
    simp only [State.writeRegister, State.writeCtrl]
    split <;> rfl
  | status => simp only [State.writeRegister, s.writeStatus_eq]
  | cmd | rcur | wcur | x i => exact State.busyProtected_cfg rfl

@[simp] theorem State.busEffect_cfg (s : State) (t : BusReq) : (s.busEffect t).cfg = s.cfg := by
  rcases s.busEffect_cases t with he | ⟨-, -, he⟩
  · rw [he]
  · rw [he, State.busWrite]
    cases targetOf s.cfg.bufBytes t.off with
    | reg r => exact s.writeRegister_cfg t.wdata r
    | byte a => exact State.busyProtected_cfg (by rw [s.memWrite_eq])
    | reserved | beyondBuf => rfl

theorem engineStep_cfg {s t : State} (h : engineStep s = .next t) : t.cfg = s.cfg := by
  rcases engineStep_next s h with rfl | ⟨f, i, u, -, -, rfl⟩ | ⟨f, e, -, rfl⟩ <;> rfl

/-- No step changes BUF_BYTES (10_state.md R35). -/
theorem step_cfg {s t : State} (h : step s = .next t) : t.cfg = s.cfg := by
  obtain ⟨rest, ⟨b, rfl⟩ | rfl | he⟩ := step_next s h
  · exact State.busEffect_cfg { s with inputs := rest } b
  · rfl
  · exact engineStep_cfg (s := { s with inputs := rest }) he

/-- Settles O59: BUFSIZE reads the configuration, which every step keeps. -/
theorem stepKeepsConfiguration : Obligations.StepKeepsConfiguration := by
  intro s
  have hread : ∀ u : State, u.answer (hostRead .bufsize) = .readOk (BitVec.ofNat 32 u.cfg.bufBytes) :=
    fun u => u.answer_register_read .bufsize 0#32
  refine ⟨hread s, fun t h => ?_⟩
  have hcfg := step_cfg h
  exact ⟨hcfg, by rw [hread, hread, hcfg]⟩

end Sys2Proof.Machine
end

section
/-! PROOFS. What a command changes (40_command_lifecycle.md R114): its destination (10_state.md R24), its cursor (R33), and
the flags of its completion (R38). -/

namespace Sys2Proof.Machine

/-! ### The update of a command -/

/-- A commit writes no register but the destination (10_state.md R24). -/
theorem execResult_commit_reg {i : Instr} {s : State} {ops : Operands} {u : Update}
    (h : execResult i s ops = .ok u) {r : Reg} (hr : destination i ≠ some r) : (s.commit u).reg r = s.reg r := by
  rcases execResult_eq_ok s h with ⟨-, rfl⟩ | ⟨rd, v, hd, rfl⟩ | ⟨rd, rs1, v, rfl, rfl⟩ | ⟨_, _, rfl, -, rfl⟩
  · exact s.reg_commit_none rfl r
  · exact s.reg_commit_other rfl fun he => hr (he ▸ hd)
  · exact s.reg_commit_other rfl fun he => hr (he ▸ rfl)
  · exact s.reg_commit_none rfl r

/-- Only RDBITS has an update of RCUR, and only WRBITS one of WCUR (10_state.md R33). -/
theorem execResult_commit_cursors {i : Instr} {s : State} {ops : Operands} {u : Update}
    (h : execResult i s ops = .ok u) :
    ((s.commit u).rcur = s.rcur ∨ ∃ rd rs1, i = .rdbits rd rs1) ∧
      ((s.commit u).wcur = s.wcur ∨ ∃ rs1 rs2, i = .wrbits rs1 rs2) := by
  rcases execResult_eq_ok s h with ⟨-, rfl⟩ | ⟨_, _, -, rfl⟩ | ⟨rd, rs1, _, rfl, rfl⟩ | ⟨rs1, rs2, rfl, -, rfl⟩
  · exact ⟨.inl rfl, .inl rfl⟩
  · exact ⟨.inl rfl, .inl rfl⟩
  · exact ⟨.inr ⟨rd, rs1, rfl⟩, .inl rfl⟩
  · exact ⟨.inl rfl, .inr ⟨rs1, rs2, rfl⟩⟩

/-! ### The statements -/

/-- Settles O52: a commit writes only the destination, and an error completion no register at all. -/
theorem onlyDestinationChanges : Obligations.OnlyDestinationChanges := by
  intro i s t h
  obtain ⟨f, -, ⟨u, hu, rfl⟩ | ⟨e, -, rfl⟩⟩ := exec_next s h
  · exact ⟨fun r => execResult_commit_reg hu, fun _ => s.commit_completedOk u⟩
  · have hregs := (s.errorCompletion_failedWith f.cw e).regs
    exact ⟨fun r _ => hregs r, fun hne => absurd hregs hne⟩

/-- Settles O53: a commit moves a cursor only for its bit command, and an error completion moves none. -/
theorem onlyBitCommandsMoveCursors : Obligations.OnlyBitCommandsMoveCursors := by
  intro i s t h
  obtain ⟨f, -, ⟨u, hu, rfl⟩ | ⟨e, -, rfl⟩⟩ := exec_next s h
  · obtain ⟨hrcur, hwcur⟩ := execResult_commit_cursors hu
    exact ⟨hrcur.resolve_left, hwcur.resolve_left⟩
  · exact ⟨fun hne => absurd rfl hne, fun hne => absurd rfl hne⟩

/-- Settles O55: a commit leaves the error record, and an error completion leaves ERR = 1. -/
theorem commandsWriteOnlyCompletionFlags : Obligations.CommandsWriteOnlyCompletionFlags := by
  intro i s t h
  obtain ⟨f, -, ⟨u, -, rfl⟩ | ⟨e, -, rfl⟩⟩ := exec_next s h
  · have hok := s.commit_completedOk u
    exact ⟨hok.toSameSurroundings, hok.done, hok.idle, .inl ⟨hok.err, hok.errcode, hok.errcmd⟩⟩
  · have hfail := s.errorCompletion_failedWith f.cw e
    exact ⟨hfail.toSameSurroundings, hfail.done, hfail.idle, .inr hfail.err⟩

end Sys2Proof.Machine
end

section
/-! PROOFS. BUF and the aperture (20_memory.md): which accesses get BUSERR (R66, R67), the window in and beyond BUF (R62,
R64), repeated transactions (R71), host words as fields (R65), and the bytes a command writes (R60, R69). -/

namespace Sys2Proof.Machine

variable (s : State)

/-! ### Placement -/

theorem BusReq.wellPlaced_of_registerRegion {t : BusReq} (h : t.off.toNat < 0x10000) :
    t.wellPlaced = (t.size == .word && t.off.toNat % 4 == 0) :=
  if_pos h

theorem BusReq.wellPlaced_of_window {t : BusReq} (h : 0x10000 ≤ t.off.toNat) :
    t.wellPlaced = (t.off.toNat % t.size.bytes == 0) :=
  if_neg (Nat.not_lt.mpr h)

/-- An aligned access in the window is well placed, whatever its size (20_memory.md R67). -/
theorem wellPlaced_aligned_window (kind : BusKind) {off : BitVec 17} {k : AccessSize} (w : Word)
    (hoff : 0x10000 ≤ off.toNat) (halign : off.toNat % k.bytes = 0) : (BusReq.mk kind off k w).wellPlaced = true :=
  (BusReq.wellPlaced_of_window hoff).trans (beq_iff_eq.mpr halign)

/-- A well-placed access is answered OK, whatever its kind (10_state.md R21). -/
theorem State.answer_resp_ok {t : BusReq} (h : t.wellPlaced = true) : (s.answer t).resp = .ok := by
  rw [State.answer, if_pos h]
  cases t.kind <;> rfl

/-- Settles O20: well placed in the register region is 4 bytes wide and aligned to 4. -/
theorem registerRegionAccesses : Obligations.RegisterRegionAccesses := by
  intro s t hoff
  have hplaced := BusReq.wellPlaced_of_registerRegion hoff
  constructor
  · intro hbad
    refine s.hostStep_busErr ?_
    rw [hplaced, Bool.and_eq_false_iff]
    simpa using hbad
  · intro hsize halign
    exact s.answer_resp_ok (by rw [hplaced, hsize, halign]; rfl)

/-! ### The window -/

theorem AccessSize.bytes_dvd_windowBase (k : AccessSize) : k.bytes ∣ windowBase := by
  cases k <;> decide

theorem AccessSize.bytes_dvd_apertureBytes (k : AccessSize) : k.bytes ∣ Config.apertureBytes := by
  cases k <;> decide

/-- An aligned access ends in the aperture (20_memory.md R67). -/
theorem access_ends_in_aperture {off : BitVec 17} {k : AccessSize} (halign : off.toNat % k.bytes = 0) :
    off.toNat + k.bytes ≤ Config.apertureBytes :=
  Nat.le_of_lt_add_of_dvd (Nat.add_lt_add_right off.isLt k.bytes)
    ((Nat.dvd_of_mod_eq_zero halign).add (dvd_refl k.bytes)) k.bytes_dvd_apertureBytes

/-- The window offsets in BUF (10_state.md R26). -/
theorem targetOf_byte {n : Nat} {off : BitVec 17} (hlo : 0x10000 ≤ off.toNat) (hhi : off.toNat - 0x10000 < n) :
    targetOf n off = .byte (off.toNat - 0x10000) := by
  rw [targetOf, windowBase, if_neg (Nat.not_lt.mpr hlo), if_pos hhi]

/-- The window offsets beyond BUF (20_memory.md R62). -/
theorem targetOf_beyondBuf {n : Nat} {off : BitVec 17} (h : 0x10000 + n ≤ off.toNat) : targetOf n off = .beyondBuf := by
  rw [targetOf, windowBase, if_neg (by omega), if_neg (by omega)]

/-- Settles O21: well placed in the window is aligned, and an aligned access crosses no multiple of its size. -/
theorem windowAccesses : Obligations.WindowAccesses := by
  intro s t hoff
  constructor
  · intro hbad
    exact s.hostStep_busErr ((BusReq.wellPlaced_of_window hoff).trans (beq_eq_false_iff_ne.mpr hbad))
  · intro halign
    have hp : t.wellPlaced = true := wellPlaced_aligned_window t.kind t.wdata hoff halign
    exact ⟨s.answer_resp_ok hp, fun hc hbuf => access_ends_in_buf hc hp (targetOf_byte hoff hbuf),
      access_ends_in_aperture halign⟩

/-- Settles O26: such an offset names no byte of BUF. -/
theorem windowBeyondBuf : Obligations.WindowBeyondBuf := by
  intro s off k w hoff halign
  have ht := targetOf_beyondBuf hoff
  have hp : ∀ kind, (BusReq.mk kind off k w).wellPlaced = true :=
    fun kind => wellPlaced_aligned_window kind w (by omega) halign
  constructor
  · simp [State.answer, hp, State.busRead, ht]
  · simp [s.hostStep_write (hp .write) rfl, State.busWrite, ht]

/-! ### The effect of a WRITE by its target (40_command_lifecycle.md R121) -/

theorem State.busWrite_register {t : BusReq} {reg : RegName} (h : targetOf s.cfg.bufBytes t.off = .reg reg) :
    s.busWrite t = s.writeRegister t.wdata reg := by
  rw [State.busWrite, h]

theorem State.busWrite_byte {t : BusReq} {a : Nat} (h : targetOf s.cfg.bufBytes t.off = .byte a) :
    s.busWrite t = s.busyProtected fun s => s.memWrite a t.wdata t.size.bytes := by
  rw [State.busWrite, h]

/-! ### Host accesses to BUF -/

section BufAccess

variable {s} {a : Nat} {k : AccessSize} (hc : s.cfg.Legal) (ha : a < s.cfg.bufBytes)
include hc ha

theorem toNat_windowOffset : (windowOffset a).toNat = 0x10000 + a := by
  obtain ⟨-, -, hle⟩ := hc
  rw [windowOffset, windowBase, BitVec.toNat_ofNat, Nat.mod_eq_of_lt (by omega)]

theorem targetOf_windowOffset : targetOf s.cfg.bufBytes (windowOffset a) = .byte a := by
  have hoff := toNat_windowOffset hc ha
  rw [targetOf_byte (by omega) (by omega), hoff, Nat.add_sub_cancel_left]

/-- An access aligned in BUF is aligned in the aperture. -/
theorem wellPlaced_windowOffset (halign : a % k.bytes = 0) (kind : BusKind) (w : Word) :
    (BusReq.mk kind (windowOffset a) k w).wellPlaced = true := by
  have hoff := toNat_windowOffset hc ha
  refine wellPlaced_aligned_window kind w (by omega) ?_
  rw [hoff]
  exact Nat.mod_eq_zero_of_dvd (k.bytes_dvd_windowBase.add (Nat.dvd_of_mod_eq_zero halign))

theorem State.answer_hostReadBuf (halign : a % k.bytes = 0) :
    s.answer (hostReadBuf a k) = .readOk (BitVec.ofNat 32 (s.memRead a k.bytes)) := by
  simp [State.answer, hostReadBuf, wellPlaced_windowOffset hc ha halign, State.busRead, targetOf_windowOffset hc ha]

theorem State.hostStep_hostWriteBuf (halign : a % k.bytes = 0) (hb : s.busy = false) (w : Word) :
    s.hostStep (hostWriteBuf a w k) = { s.memWrite a w k.bytes with rsp := some .writeOk } := by
  rw [hostWriteBuf, s.hostStep_write (wellPlaced_windowOffset hc ha halign .write w) rfl]
  rw [s.busWrite_byte (targetOf_windowOffset hc ha), s.busyProtected_idle hb]

end BufAccess

/-- `MemRead` as the sum of R64. -/
theorem State.memRead_eq_sum (a k : Nat) :
    s.memRead a k = ∑ j ∈ Finset.range k, (s.bufByte (a + j)).toNat * 2 ^ (8 * j) := by
  induction k with
  | zero => rfl
  | succ k ih => rw [State.memRead, ih, Finset.sum_range_succ]

/-- A longer read is a read at the same address and one above it. -/
theorem State.memRead_add (a j k : Nat) :
    s.memRead a (j + k) = s.memRead a j + s.memRead (a + j) k * 2 ^ (8 * j) := by
  induction k with
  | zero => simp [State.memRead]
  | succ k ih =>
    rw [← Nat.add_assoc, State.memRead, ih, State.memRead, ← Nat.add_assoc a, Nat.mul_add 8, pow_add]
    ring

/-- Settles O27: the READ is the sum, the WRITE is a MemWrite and the record of the answer. -/
theorem windowIsLittleEndian : Obligations.WindowIsLittleEndian := by
  intro s a k w hc ha halign
  refine ⟨?_, fun hb => ?_, ?_⟩
  · rw [State.answer_hostReadBuf hc ha halign, s.memRead_eq_sum]
  · rw [State.hostStep_hostWriteBuf hc ha halign hb]
    have hbyte : ∀ x, State.bufByte { s.memWrite a w k.bytes with rsp := some .writeOk } x =
        (s.memWrite a w k.bytes).bufByte x := fun _ => rfl
    refine ⟨fun j hj => ?_, fun x hx => ?_, ?_⟩
    · rw [hbyte, s.bufByte_memWrite w hj, BitVec.extractLsb'_toNat, Nat.shiftRight_eq_div_pow]
    · rw [hbyte, s.bufByte_memWrite_other w hx]
    · rw [s.memWrite_eq]
  · rw [s.memRead_add a 2 2, Nat.add_comm]

/-! ### Repeated transactions -/

/-- An answer does not depend on the record of the last one (log 7). -/
theorem State.answer_withRsp (r : Option BusRsp) (t : BusReq) :
    State.answer { s with rsp := r } t = s.answer t := by
  have hmem : ∀ a k, State.memRead { s with rsp := r } a k = s.memRead a k := State.memRead_congr fun _ => rfl
  have hreg : ∀ reg, State.readRegister { s with rsp := r } reg = s.readRegister reg := by
    intro reg
    cases reg <;> rfl
  simp only [State.answer, State.busRead, hmem, hreg]

/-- A MemWrite neither reads nor changes the record of the answer (log 7). -/
theorem State.memWrite_withRsp (r : Option BusRsp) (a : Nat) (v : Word) (k : Nat) :
    State.memWrite { s with rsp := r } a v k = { s.memWrite a v k with rsp := r } := by
  induction k with
  | zero => rfl
  | succ k ih =>
    rw [State.memWrite, ih]
    rfl

/-- A busy-protected WRITE is idempotent if the write it protects is and does not change BUSY: each time the block is
busy, or each time it is idle (10_state.md R39). -/
theorem State.busyProtected_again {write : State → State} (r : Option BusRsp) (hidle : (write s).busy = s.busy)
    (hw : write { write s with rsp := r } = { write s with rsp := r }) :
    State.busyProtected { s.busyProtected write with rsp := r } write = { s.busyProtected write with rsp := r } := by
  cases hb : s.busy with
  | true =>
    rw [s.busyProtected_busy hb, State.busyProtected_busy]
    exact hb
  | false =>
    rw [s.busyProtected_idle hb, State.busyProtected_idle]
    · exact hw
    · exact hidle.trans hb

theorem State.writeCtrl_again (r : Option BusRsp) (w : Word) :
    State.writeCtrl { s.writeCtrl w with rsp := r } w = { s.writeCtrl w with rsp := r } := by
  cases hw : w.getLsbD 1 with
  | true => simp only [State.writeCtrl_softReset _ hw]; rfl
  | false => simp only [State.writeCtrl_ie _ hw]

theorem State.writeStatus_again (r : Option BusRsp) (w : Word) :
    State.writeStatus { s.writeStatus w with rsp := r } w = { s.writeStatus w with rsp := r } := by
  simp only [State.writeStatus_eq, Bool.and_assoc, Bool.and_self]
  cases w.getLsbD 2 <;> rfl

/-- Every register WRITE but one to CMD is idempotent (20_memory.md R71). -/
theorem State.writeRegister_again {reg : RegName} (h : reg ≠ .cmd) (r : Option BusRsp) (w : Word) :
    State.writeRegister { s.writeRegister w reg with rsp := r } w reg = { s.writeRegister w reg with rsp := r } := by
  cases reg with
  | id | bufsize | errcmd => rfl
  | ctrl => exact s.writeCtrl_again r w
  | status => exact s.writeStatus_again r w
  | cmd => exact absurd rfl h
  | rcur | wcur => exact s.busyProtected_again r rfl rfl
  | x i => exact s.busyProtected_again r rfl (by simp [State.setReg])

/-- `State.writeRegister_again` for every target of a WRITE. -/
theorem State.busWrite_again {t : BusReq} (h : t.off ≠ RegName.cmd.offset) (r : Option BusRsp) :
    State.busWrite { s.busWrite t with rsp := r } t = { s.busWrite t with rsp := r } := by
  cases ht : targetOf s.cfg.bufBytes t.off with
  | reg reg =>
    have hreg : reg ≠ .cmd := fun he => h (he ▸ offset_of_targetOf ht)
    rw [s.busWrite_register ht, State.busWrite_register]
    · exact s.writeRegister_again hreg r t.wdata
    · rwa [s.writeRegister_cfg]
  | byte a =>
    rw [s.busWrite_byte ht, State.busWrite_byte]
    · refine s.busyProtected_again r ?_ ?_
      · rw [s.memWrite_eq, State.busy, State.busy]
      · rw [State.memWrite_withRsp, s.memWrite_memWrite]
    · rwa [State.busyProtected_cfg (by rw [s.memWrite_eq])]
  | reserved | beyondBuf => simp only [State.busWrite, ht]

/-- Settles O28: READs and refused WRITEs change only the record of the answer, which no answer depends on, and a WRITE
to any target but CMD is idempotent. -/
theorem readsHaveNoEffect : Obligations.ReadsHaveNoEffect := by
  intro s t
  constructor
  · intro hk
    rw [s.hostStep_read hk]
    exact ⟨rfl, s.answer_withRsp _ t⟩
  · intro hk hcmd
    cases hp : t.wellPlaced with
    | true =>
      simp only [State.hostStep_write _ hp hk, s.busWrite_again hcmd]
    | false => simp only [State.hostStep_busErr _ hp]

/-! ### Host words as fields -/

theorem State.field_add (c v w : Nat) : s.field c (v + w) = s.field c v + s.field (c + v) w * 2 ^ v := by
  induction w with
  | zero => simp [State.field]
  | succ w ih =>
    rw [← Nat.add_assoc, State.field, ih, State.field, ← Nat.add_assoc c, pow_add]
    ring

/-- The low `w` bits of byte `a` are the field of width `w` at its first bit (20_memory.md R63). -/
theorem State.field_in_byte (a : Nat) {w : Nat} (h : w ≤ 8) : s.field (8 * a) w = (s.bufByte a).toNat % 2 ^ w := by
  induction w with
  | zero => simp [State.field, Nat.mod_one]
  | succ w ih =>
    have hbyte : (8 * a + w) / 8 = a := by omega
    have hbit : (8 * a + w) % 8 = w := by omega
    rw [State.field, ih (by omega), State.bufBit, hbyte, hbit, BitVec.getLsbD, Nat.toNat_testBit, Nat.mod_pow_succ,
      Nat.mul_comm (2 ^ w)]

/-- A field of whole bytes is the little-endian word of those bytes (20_memory.md R65). -/
theorem State.field_eq_memRead (a k : Nat) : s.field (8 * a) (8 * k) = s.memRead a k := by
  induction k with
  | zero => rfl
  | succ k ih =>
    have hbyte : s.field (8 * (a + k)) 8 = (s.bufByte (a + k)).toNat :=
      (s.field_in_byte (a + k) (le_refl 8)).trans (Nat.mod_eq_of_lt (s.bufByte (a + k)).isLt)
    rw [Nat.mul_succ, s.field_add, ih, ← Nat.mul_add, hbyte, State.memRead]

theorem State.field_lt (c w : Nat) : s.field c w < 2 ^ w := by
  induction w with
  | zero => simp [State.field]
  | succ w ih =>
    have hbit := Bool.toNat_le (s.bufBit (c + w))
    rw [State.field, pow_succ]
    nlinarith

/-- What RDBITS leaves in its destination when its field fits (44_bitstream.md R171). -/
theorem exec_rdbits_next (rd rs1 : Reg) :
    ∃ t, exec (.rdbits rd rs1) (s.issued (.rdbits rd rs1)) = .next t ∧
      (s.FieldFits s.rcur.toNat (s.reg rs1).toNat →
        (t.reg rd).toNat = s.field s.rcur.toNat (s.reg rs1).toNat) := by
  refine ⟨_, exec_issued s _, fun h => ?_⟩
  have hfits : (s.issued (.rdbits rd rs1)).FieldFits s.rcur.toNat (s.reg rs1).toNat := h
  have hfield : (s.issued (.rdbits rd rs1)).field s.rcur.toNat (s.reg rs1).toNat =
      s.field s.rcur.toNat (s.reg rs1).toNat := State.field_congr fun p _ _ => s.bufBit_issue _ p
  rw [s.captureOps_rdbits, execResult, rdbitsResult, State.checkField_of_fits _ hfits, State.finish,
    State.reg_commit_same _ rfl, hfield, BitVec.toNat_ofNat, Nat.mod_eq_of_lt]
  exact (s.field_lt _ _).trans_le (Nat.pow_le_pow_right (by decide) h.1)

/-- Settles O45: a field of `k ≤ 4` whole bytes fits and is the word `MemRead(a, k)`. -/
theorem hostWordsAgreeWithFields : Obligations.HostWordsAgreeWithFields := by
  intro s rd rs1 a _ ha hcur
  obtain ⟨t, ht, hreg⟩ := exec_rdbits_next s rd rs1
  have hword : ∀ k ≤ 4, (s.reg rs1).toNat = 8 * k → (t.reg rd).toNat = s.memRead a k := by
    intro k hk hw
    rw [hcur, hw] at hreg
    have hfits : s.FieldFits (8 * a) (8 * k) := ⟨by rw [W]; omega, fun _ => by omega⟩
    rw [hreg hfits, s.field_eq_memRead]
  exact ⟨t, ht, fun h => hword 4 (by decide) (by rw [h]; rfl), fun h => hword 1 (by decide) (by rw [h]; rfl)⟩

/-! ### The bytes a command writes -/

/-- No command but WRBITS sets a bit of BUF, and WRBITS sets only bits of its field (44_bitstream.md R174). -/
theorem execResult_setBits {i : Instr} {ops : Operands} {u : Update} (h : execResult i s ops = .ok u) :
    u.setBits = [] ∨ (∃ rs1 rs2, i = .wrbits rs1 rs2) ∧ u.setBits = fieldOnes ops.s1 ops.wc.toNat ops.s2.toNat := by
  rcases execResult_eq_ok s h with ⟨-, rfl⟩ | ⟨_, _, -, rfl⟩ | ⟨_, _, _, -, rfl⟩ | ⟨rs1, rs2, hi, -, rfl⟩
  · exact .inl rfl
  · exact .inl rfl
  · exact .inl rfl
  · exact .inr ⟨⟨rs1, rs2, hi⟩, rfl⟩

theorem State.bufByte_setAll_fieldOnes {v : Word} {c w a : Nat} (h : ∀ k < w, (c + k) / 8 ≠ a) :
    (s.setAll (fieldOnes v c w)).bufByte a = s.bufByte a := by
  refine s.bufByte_setAll_other fun p hp => ?_
  obtain ⟨hlo, hhi, -⟩ := mem_fieldOnes.mp hp
  obtain ⟨k, rfl⟩ := Nat.exists_eq_add_of_le hlo
  exact h k (by omega)

/-- Settles O54: a commit sets no bit, or the ones of a WRBITS field, and an error completion keeps BUF. -/
theorem onlyWrbitsChangesBuf : Obligations.OnlyWrbitsChangesBuf := by
  intro i s t f h hf
  obtain ⟨f', hf', ⟨u, hu, rfl⟩ | ⟨e, -, rfl⟩⟩ := exec_next s h
  · obtain rfl : f = f' := Option.some.inj (hf.symm.trans hf')
    rcases execResult_setBits s hu with hnil | ⟨hi, hones⟩
    · have hsame : SameBuf s (s.commit u) := fun a => by rw [s.bufByte_commit, hnil, s.setAll_nil]
      exact ⟨fun _ => hsame, fun a _ => hsame a⟩
    · refine ⟨fun hne => ?_, fun a ha => ?_⟩
      · obtain ⟨rs1, rs2, hi⟩ := hi
        exact absurd hi (hne rs1 rs2)
      · rw [s.bufByte_commit, hones, s.bufByte_setAll_fieldOnes ha]
  · exact ⟨fun _ => s.bufByte_errorCompletion f'.cw e, fun a _ => s.bufByte_errorCompletion f'.cw e a⟩

end Sys2Proof.Machine
end

section
/-! PROOFS. The decoder and the encoder (30_encoding.md): every command has one word, of which no bit is ignored (R94
to R97, R102), and the legal fields of R93 and the rows of R94 describe the words the decoder accepts. -/

namespace Sys2Proof

/-! ### Fields and words (R90, R91) -/

/-- The six fields part the 32 bits of a word, so that each bit is one of its field's. -/
@[simp] theorem CommandFields.toWord_ofWord (cw : Word) : (CommandFields.ofWord cw).toWord = cw := by
  apply BitVec.eq_of_getLsbD_eq
  intro n hn
  simp only [CommandFields.toWord, CommandFields.ofWord, BitVec.getLsbD_append, BitVec.getLsbD_extractLsb']
  grind

theorem CommandFields.ofWord_inj {a b : Word} : CommandFields.ofWord a = CommandFields.ofWord b ↔ a = b :=
  ⟨fun h => by rw [← toWord_ofWord a, h, toWord_ofWord], fun h => h ▸ rfl⟩

@[simp] theorem CommandFields.ofWord_encode (i : Instr) : CommandFields.ofWord (encode i) = encodeFields i :=
  Machine.CommandFields.ofWord_toWord _

@[simp] theorem fieldOfReg_regOfField (b : BitVec 4) : fieldOfReg (regOfField b) = b := rfl

/-! ### The decoder inverts the encoder -/

theorem ifUnusedZero_eq_command {fields : List (BitVec 4)} {i j : Instr} :
    ifUnusedZero fields i = .command j ↔ (∀ b ∈ fields, b = 0#4) ∧ i = j := by
  simp only [ifUnusedZero, List.all_eq_true, beq_iff_eq]
  split_ifs with h
  · rw [Decoded.command.injEq, and_iff_right h]
  · exact iff_of_false nofun fun hall => h hall.1

theorem decodeFields_encodeFields (i : Instr) : decodeFields (encodeFields i) = .command i := by
  cases i <;> rfl

/-- Each branch of the decoder that answers a command has fixed every field the command does not name. -/
theorem encodeFields_of_decodeFields {f : CommandFields} {i : Instr} (h : decodeFields f = .command i) :
    encodeFields i = f := by
  obtain ⟨rsv, rs3, rs2, rs1, rd, opc⟩ := f
  simp only [decodeFields] at h
  split_ifs at h
  all_goals
    simp only [ifUnusedZero_eq_command, Decoded.command.injEq, List.forall_mem_cons] at h
  all_goals simp_all [encodeFields, ← h]

/-- The words the decoder accepts are the encoder's, each with its own command. -/
theorem decode_eq_command_iff {cw : Word} {i : Instr} : decode cw = .command i ↔ encode i = cw := by
  constructor
  · intro h
    rw [encode, encodeFields_of_decodeFields h, CommandFields.toWord_ofWord]
  · rintro rfl
    rw [decode, CommandFields.ofWord_encode, decodeFields_encodeFields]

theorem decode_encode (i : Instr) : decode (encode i) = .command i :=
  decode_eq_command_iff.mpr rfl

/-- Settles O2: the fields of an encoded word are the command's, from which the decoder reads it back. -/
theorem decodeOfEncode : Obligations.DecodeOfEncode := decode_encode

/-- Settles O3: the fields a legal word decodes from are the ones its command encodes to. -/
theorem encodeOfDecode : Obligations.EncodeOfDecode :=
  fun _ _ h => decode_eq_command_iff.mp h

/-- Settles O1: each worked word is the encoder's, so O2 decodes it. -/
theorem workedEncodings : Obligations.WorkedEncodings := by
  intro p hp
  have hword : encode p.1 = p.2 := by
    revert p
    decide
  exact ⟨decode_eq_command_iff.mpr hword, hword⟩

/-! ### The legal fields (R93, R95) -/

theorem CommandFields.legal_iff {f : CommandFields} :
    f.legal = true ↔ f.rsv = 0#8 ∧ ∃ u, usedFields f.opc = some u ∧ (u.rd = true ∨ f.rd = 0#4) ∧
      (u.rs1 = true ∨ f.rs1 = 0#4) ∧ (u.rs2 = true ∨ f.rs2 = 0#4) ∧ (u.rs3 = true ∨ f.rs3 = 0#4) := by
  simp only [legal, rsvZero, opcodeAssigned, unusedZero]
  cases usedFields f.opc with
  | none => simp
  | some u => simp [and_assoc]

theorem encodeFields_legal : ∀ i : Instr, (encodeFields i).legal = true
  | .nop => Laws.LegalFields.nop
  | .bitlen rd rs1 => Laws.LegalFields.bitlen rd rs1
  | .clz rd rs1 => Laws.LegalFields.clz rd rs1
  | .modmul rd rs1 rs2 rs3 => Laws.LegalFields.modmul rd rs1 rs2 rs3
  | .modred rd rs1 rs2 rs3 => Laws.LegalFields.modred rd rs1 rs2 rs3
  | .modexp rd rs1 rs2 rs3 => Laws.LegalFields.modexp rd rs1 rs2 rs3
  | .modinv rd rs1 rs2 => Laws.LegalFields.modinv rd rs1 rs2
  | .rdbits rd rs1 => Laws.LegalFields.rdbits rd rs1
  | .wrbits rs1 rs2 => Laws.LegalFields.wrbits rs1 rs2

/-- Each assigned opcode takes the decoder to its command's branch, where the unused fields are 0. -/
theorem CommandFields.exists_decodeFields_of_legal {f : CommandFields} (h : f.legal = true) :
    ∃ i, decodeFields f = .command i := by
  obtain ⟨hrsv, u, hused, hunused⟩ := legal_iff.mp h
  unfold usedFields at hused
  split_ifs at hused
  all_goals
    obtain rfl := Option.some.inj hused
    simp_all [decodeFields, ifUnusedZero]

/-- Settles O6: every command encodes to legal fields, and legal fields leave the decoder no branch but a command's. -/
theorem decodesExactlyTheLegalFields : Obligations.DecodesExactlyTheLegalFields := by
  intro cw
  constructor
  · rintro ⟨i, h⟩
    rw [← encodeFields_of_decodeFields h]
    exact encodeFields_legal i
  · exact CommandFields.exists_decodeFields_of_legal

/-! ### The match and mask table (R94) -/

/-- The fields of `cw AND mask`, from the fields of both. -/
def CommandFields.masked (f mask : CommandFields) : CommandFields where
  rsv := f.rsv &&& mask.rsv
  rs3 := f.rs3 &&& mask.rs3
  rs2 := f.rs2 &&& mask.rs2
  rs1 := f.rs1 &&& mask.rs1
  rd  := f.rd &&& mask.rd
  opc := f.opc &&& mask.opc

theorem CommandFields.ofWord_and (cw mask : Word) :
    CommandFields.ofWord (cw &&& mask) = (CommandFields.ofWord cw).masked (CommandFields.ofWord mask) := by
  simp [CommandFields.ofWord, CommandFields.masked, BitVec.extractLsb'_and]

theorem OpcodeRow.matches_iff_masked {r : OpcodeRow} {cw : Word} :
    r.Matches cw ↔
      (CommandFields.ofWord cw).masked (CommandFields.ofWord r.mask) = CommandFields.ofWord r.pattern := by
  rw [← CommandFields.ofWord_and, CommandFields.ofWord_inj]

/-- A 4-bit field under a mask of ones. -/
theorem field_and_ones (b : BitVec 4) : b &&& 15#4 = b := BitVec.and_allOnes

/-- RSV or OPC under a mask of ones. -/
theorem byte_and_ones (b : BitVec 8) : b &&& 255#8 = b := BitVec.and_allOnes

/-- Every row masks the whole opcode, so a word that matches it has the opcode of its pattern. -/
theorem OpcodeRow.opc_of_matches {r : OpcodeRow} (hr : r ∈ opcodeTable) {cw : Word} (h : r.Matches cw) :
    (CommandFields.ofWord cw).opc = (CommandFields.ofWord r.pattern).opc := by
  have hmask : ∀ r ∈ opcodeTable, (CommandFields.ofWord r.mask).opc = 255#8 := by decide
  rw [← matches_iff_masked.mp h, CommandFields.masked, hmask r hr, byte_and_ones]

/-- No two rows match one word (R96), since their patterns differ in the opcode. -/
theorem OpcodeRow.eq_of_matches {r r' : OpcodeRow} (hr : r ∈ opcodeTable) (hr' : r' ∈ opcodeTable) {cw : Word}
    (h : r.Matches cw) (h' : r'.Matches cw) : r = r' := by
  have hopc : ∀ r ∈ opcodeTable, ∀ r' ∈ opcodeTable,
      (CommandFields.ofWord r.pattern).opc = (CommandFields.ofWord r'.pattern).opc → r = r' := by decide
  exact hopc r hr r' hr' ((opc_of_matches hr h).symm.trans (opc_of_matches hr' h'))

/-- A word that matches a row has RSV 0, that row's opcode, and 0 in the fields it does not use. -/
theorem OpcodeRow.legal_of_matches {r : OpcodeRow} (hr : r ∈ opcodeTable) {cw : Word} (h : r.Matches cw) :
    (CommandFields.ofWord cw).legal = true := by
  rw [matches_iff_masked] at h
  generalize CommandFields.ofWord cw = f at h ⊢
  obtain ⟨rsv, rs3, rs2, rs1, rd, opc⟩ := f
  simp only [opcodeTable, List.mem_cons, List.not_mem_nil, or_false] at hr
  rcases hr with rfl | rfl | rfl | rfl | rfl | rfl | rfl | rfl | rfl
  all_goals
    simp [CommandFields.masked, CommandFields.ofWord, field_and_ones, byte_and_ones] at h
    simp [CommandFields.legal_iff, h, usedFields]

/-- The row of a command, in the order of the table. -/
def Instr.row : Instr → OpcodeRow
  | .nop => opcodeTable[0]
  | .bitlen _ _ => opcodeTable[1]
  | .clz _ _ => opcodeTable[2]
  | .modmul _ _ _ _ => opcodeTable[3]
  | .modred _ _ _ _ => opcodeTable[4]
  | .modexp _ _ _ _ => opcodeTable[5]
  | .modinv _ _ _ => opcodeTable[6]
  | .rdbits _ _ => opcodeTable[7]
  | .wrbits _ _ => opcodeTable[8]

theorem Instr.row_mem (i : Instr) : i.row ∈ opcodeTable := by
  cases i <;> simp only [Instr.row, List.getElem_mem]

theorem Instr.row_mnemonic (i : Instr) : i.row.mnemonic = i.mnemonic := by
  cases i <;> rfl

theorem Instr.row_matches_encode (i : Instr) : i.row.Matches (encode i) := by
  rw [OpcodeRow.matches_iff_masked, CommandFields.ofWord_encode]
  cases i
  all_goals
    simp only [Instr.row, opcodeTable, List.getElem_cons_succ, List.getElem_cons_zero, encodeFields,
      CommandFields.masked, CommandFields.ofWord]
    simp

theorem row_matches_of_decode {cw : Word} {i : Instr} (h : decode cw = .command i) : i.row.Matches cw :=
  decode_eq_command_iff.mp h ▸ i.row_matches_encode

/-- The words a row matches are those of its own command. -/
theorem OpcodeRow.matches_iff_decode {r : OpcodeRow} (hr : r ∈ opcodeTable) {cw : Word} :
    r.Matches cw ↔ ∃ i, decode cw = .command i ∧ i.row = r := by
  constructor
  · intro h
    obtain ⟨i, hi⟩ := CommandFields.exists_decodeFields_of_legal (legal_of_matches hr h)
    exact ⟨i, hi, eq_of_matches i.row_mem hr (row_matches_of_decode hi) h⟩
  · rintro ⟨i, hi, rfl⟩
    exact row_matches_of_decode hi

/-- Settles O5: the opcode tells the rows apart, and the words of a row are those of its command. -/
theorem rowsMatchDisjointWords : Obligations.RowsMatchDisjointWords := by
  refine ⟨fun r hr r' hr' cw => OpcodeRow.eq_of_matches hr hr', fun cw => ⟨fun r hr h => ?_, fun h i hi => ?_⟩⟩
  · obtain ⟨i, hi, rfl⟩ := (OpcodeRow.matches_iff_decode hr).mp h
    exact ⟨i, ⟨hi, i.row_mnemonic.symm⟩, fun j hj => Decoded.command.inj (hj.1.symm.trans hi)⟩
  · exact h i.row i.row_mem (row_matches_of_decode hi)

theorem exists_decode_iff_existsUnique_row (cw : Word) :
    (∃ i, decode cw = .command i) ↔ ∃! r, r ∈ opcodeTable ∧ r.Matches cw := by
  constructor
  · rintro ⟨i, hi⟩
    have hrow := row_matches_of_decode hi
    exact ⟨i.row, ⟨i.row_mem, hrow⟩, fun r ⟨hr, h⟩ => OpcodeRow.eq_of_matches hr i.row_mem h hrow⟩
  · rintro ⟨r, ⟨hr, h⟩, -⟩
    obtain ⟨i, hi, -⟩ := (OpcodeRow.matches_iff_decode hr).mp h
    exact ⟨i, hi⟩

end Sys2Proof
end

section
/-! PROOFS. The engine on the word in flight (40_command_lifecycle.md R113, R115; 60_exceptions.md R201), and a command
from its CMD write to its execution (30_encoding.md R95, R101). -/

namespace Sys2Proof.Machine

variable {s : State} {f : InFlight}

/-! ### The engine on the word in flight -/

theorem engineStep_command {i : Instr} (hf : s.inflight = some f) (hd : decode f.cw = .command i) :
    engineStep s = exec i s := by
  simp only [engineStep, hf, hd]

theorem engineStep_illegal (hf : s.inflight = some f) (hd : ∀ i, decode f.cw ≠ .command i) :
    engineStep s = .next (s.errorCompletion f.cw .illegal) := by
  cases hw : decode f.cw with
  | command i => exact absurd hw (hd i)
  | illegal why => simp only [engineStep, hf, hw]

theorem engineStep_answers_next (s : State) : ∃ t, engineStep s = .next t := by
  rcases engineStep_cases s with ⟨-, h⟩ | ⟨f, i, -, -, h⟩ | ⟨f, why, -, -, h⟩
  · exact ⟨_, h⟩
  · exact ⟨_, h⟩
  · exact ⟨_, h⟩

/-- Settles O12: the engine's turn, a transaction and a hard reset each answer a next state. -/
theorem stepAlwaysAnswersNext : Obligations.StepAlwaysAnswersNext := by
  intro s
  cases hin : s.inputs with
  | nil => exact step_nil s hin ▸ engineStep_answers_next s
  | cons e rest =>
    rw [step_cons s hin]
    cases e with
    | bus t => exact ⟨_, rfl⟩
    | engine => exact engineStep_answers_next _
    | hardReset => exact ⟨_, rfl⟩

/-! ### The CMD write -/

/-- `HW CMD, cw` to an idle block issues the word, legal or not (40_command_lifecycle.md R110). -/
theorem State.hostStep_cmd_idle (hb : s.busy = false) (cw : Word) :
    s.hostStep (hostWrite .cmd cw) = { s.issue cw with rsp := some .writeOk } := by
  rw [s.hostStep_hostWrite, State.writeRegister, s.busyProtected_idle hb]

theorem State.answer_hostWrite (s : State) (r : RegName) (v : Word) : s.answer (hostWrite r v) = .writeOk := by
  simp only [State.answer, hostWrite, wellPlaced_register, if_true]

/-- Settles O4: a legal word matches the row of its command and no other, and an illegal one is issued and completes
with ILLEGAL. -/
theorem legalIffOneRowMatches : Obligations.LegalIffOneRowMatches := by
  refine fun cw => ⟨exists_decode_iff_existsUnique_row cw, fun i hi => ?_, fun hill s hb => ?_⟩
  · exact ⟨i.row, i.row_mem, row_matches_of_decode hi, i.row_mnemonic⟩
  · rw [State.hostStep_cmd_idle hb]
    exact ⟨s.answer_hostWrite .cmd cw, rfl, _, engineStep_illegal rfl hill,
      State.errorCompletion_failedWith _ cw .illegal⟩

/-- Settles O13: the CMD write issues the word of `i`, which the engine then decodes to `i`. -/
theorem issueThenEngineExecutes : Obligations.IssueThenEngineExecutes := by
  intro s i rest hb hin
  have hidle : State.busy { s with inputs := .engine :: rest } = false := hb
  let u := State.issued { s with inputs := rest, rsp := some .writeOk } i
  refine ⟨{ u with inputs := .engine :: rest }, ?_, ?_⟩
  · rw [step_bus hin, issueReq, State.hostStep_cmd_idle hidle]
    rfl
  · rw [step_cons _ rfl]
    exact engineStep_command (s := u) (f := ⟨encode i, s.captureOps (encode i)⟩) rfl (decode_encode i)

end Sys2Proof.Machine
end

section
/-! PROOFS. The assembler (30_encoding.md R99): it reads the written form of a command back, mnemonic and operands. -/

namespace Sys2Proof.Machine

/-! ### Spaces -/

/-- Text that neither begins nor ends with a space. -/
def Trimmed (cs : List Char) : Prop := (∀ c ∈ cs.head?, c ≠ ' ') ∧ ∀ c ∈ cs.getLast?, c ≠ ' '

theorem dropWhile_space_eq_self {cs : List Char} (h : ∀ c ∈ cs.head?, c ≠ ' ') : cs.dropWhile (· == ' ') = cs := by
  cases cs with
  | nil => rfl
  | cons c cs => simpa using h c rfl

theorem Trimmed.trimSpaces_eq {cs : List Char} (h : Trimmed cs) : trimSpaces cs = cs := by
  obtain ⟨hhead, hlast⟩ := h
  have hrev : ∀ c ∈ cs.reverse.head?, c ≠ ' ' := by rwa [List.head?_reverse]
  rw [trimSpaces, dropWhile_space_eq_self hhead, dropWhile_space_eq_self hrev, List.reverse_reverse]

@[simp] theorem trimSpaces_space_cons (cs : List Char) : trimSpaces (' ' :: cs) = trimSpaces cs := rfl

/-- Text set between two pieces leaves their outer ends. -/
theorem Trimmed.append {as bs : List Char} (ha : Trimmed as) (hb : Trimmed bs) (hane : as ≠ []) (hbne : bs ≠ [])
    (sep : List Char) : Trimmed (as ++ sep ++ bs) := by
  obtain ⟨hhead, -⟩ := ha
  obtain ⟨-, hlast⟩ := hb
  refine ⟨?_, ?_⟩
  · rw [List.append_assoc, List.head?_append_of_ne_nil _ hane]
    exact hhead
  · rw [List.getLast?_append_of_ne_nil _ hbne]
    exact hlast

/-! ### Register names -/

theorem regChars_ne_nil (r : Reg) : regChars r ≠ [] := List.cons_ne_nil _ _

theorem separators_not_mem_regChars : ∀ r : Reg, ' ' ∉ regChars r ∧ ',' ∉ regChars r := by decide

theorem trimmed_of_not_mem {cs : List Char} (h : ' ' ∉ cs) : Trimmed cs :=
  ⟨fun _ hc he => h (he ▸ List.mem_of_mem_head? hc), fun _ hc he => h (he ▸ List.mem_of_mem_getLast? hc)⟩

theorem regChars_trimmed (r : Reg) : Trimmed (regChars r) := trimmed_of_not_mem (separators_not_mem_regChars r).1

theorem parseReg_regChars : ∀ r : Reg, parseReg (regChars r) = some r := by decide

theorem mapM_parseReg_regChars (rs : List Reg) : (rs.map regChars).mapM parseReg = some rs := by
  induction rs with
  | nil => rfl
  | cons r rs ih => simp [parseReg_regChars, ih]

/-! ### Operands -/

theorem operandChars_cons_cons (r r' : Reg) (rs : List Reg) :
    operandChars (r :: r' :: rs) = regChars r ++ [',', ' '] ++ operandChars (r' :: rs) := rfl

theorem operandChars_ne_nil (r : Reg) (rs : List Reg) : operandChars (r :: rs) ≠ [] := by
  cases rs <;> simp [operandChars, regChars_ne_nil]

theorem operandChars_trimmed (r : Reg) (rs : List Reg) : Trimmed (operandChars (r :: rs)) := by
  induction rs generalizing r with
  | nil => exact regChars_trimmed r
  | cons r' rs ih => exact (regChars_trimmed r).append (ih r') (regChars_ne_nil r) (operandChars_ne_nil r' rs) _

theorem splitCommas_ne_nil (cs : List Char) : splitCommas cs ≠ [] := by
  fun_cases splitCommas cs <;> simp

theorem splitCommas_cons {c : Char} (hc : c ≠ ',') (cs : List Char) :
    ∃ p ps, splitCommas cs = p :: ps ∧ splitCommas (c :: cs) = (c :: p) :: ps := by
  cases h : splitCommas cs with
  | nil => exact absurd h (splitCommas_ne_nil cs)
  | cons p ps => exact ⟨p, ps, rfl, by simp [splitCommas, hc, h]⟩

theorem splitCommas_of_not_mem {p : List Char} (h : ',' ∉ p) : splitCommas p = [p] := by
  induction p with
  | nil => rfl
  | cons c p ih =>
    obtain ⟨hc, hp⟩ := List.ne_and_not_mem_of_not_mem_cons h
    simp [splitCommas, hc.symm, ih hp]

theorem splitCommas_append_comma {p : List Char} (h : ',' ∉ p) (cs : List Char) :
    splitCommas (p ++ ',' :: cs) = p :: splitCommas cs := by
  induction p with
  | nil => simp [splitCommas]
  | cons c p ih =>
    obtain ⟨hc, hp⟩ := List.ne_and_not_mem_of_not_mem_cons h
    simp [splitCommas, hc.symm, ih hp]

/-- A space before the first piece is trimmed. -/
theorem map_trimSpaces_splitCommas_space (cs : List Char) :
    (splitCommas (' ' :: cs)).map trimSpaces = (splitCommas cs).map trimSpaces := by
  obtain ⟨p, ps, h, h'⟩ := splitCommas_cons (show ' ' ≠ ',' by decide) cs
  rw [h, h', List.map_cons, trimSpaces_space_cons, List.map_cons]

/-- The pieces of written operands are the register names. -/
theorem map_trimSpaces_splitCommas_operandChars (r : Reg) (rs : List Reg) :
    (splitCommas (operandChars (r :: rs))).map trimSpaces = (r :: rs).map regChars := by
  induction rs generalizing r with
  | nil =>
    simp [operandChars, splitCommas_of_not_mem (separators_not_mem_regChars r).2, (regChars_trimmed r).trimSpaces_eq]
  | cons r' rs ih =>
    rw [operandChars_cons_cons, List.append_assoc]
    simp only [List.cons_append, List.nil_append]
    rw [splitCommas_append_comma (separators_not_mem_regChars r).2, List.map_cons, map_trimSpaces_splitCommas_space,
      ih r', (regChars_trimmed r).trimSpaces_eq, ← List.map_cons]

/-! ### Lines -/

theorem mnemonicChars_ne_nil (i : Instr) : mnemonicChars i ≠ [] := by
  cases i <;> exact List.cons_ne_nil _ _

theorem space_not_mem_mnemonicChars (i : Instr) : ' ' ∉ mnemonicChars i := by
  cases i <;> simp [mnemonicChars]

theorem map_toUpper_mnemonicChars (i : Instr) : (mnemonicChars i).map Char.toUpper = mnemonicChars i := by
  cases i <;> rfl

theorem commandOf_mnemonicChars (i : Instr) : commandOf (mnemonicChars i) (operandList i) = some i := by
  cases i <;> rfl

theorem mnemonicChars_ne_space (i : Instr) : ∀ c ∈ mnemonicChars i, (c != ' ') = true := by
  intro c hc
  simpa using fun he : c = ' ' => space_not_mem_mnemonicChars i (he ▸ hc)

theorem asmText_of_cons {i : Instr} {r : Reg} {rs : List Reg} (h : operandList i = r :: rs) :
    asmText i = mnemonicChars i ++ [' '] ++ operandChars (r :: rs) := by
  rw [asmText, h]

/-- NOP is the one command without operands. -/
theorem eq_nop_of_operandList {i : Instr} (h : operandList i = []) : i = .nop := by
  cases i with
  | nop => rfl
  | _ => cases h

/-- A written line reads back: its first space ends the mnemonic, and its commas part the register names. -/
theorem parseAsm_asmText (i : Instr) : parseAsm (asmText i) = some i := by
  cases h : operandList i with
  | nil =>
    rw [eq_nop_of_operandList h]
    rfl
  | cons r rs =>
    have htrim : Trimmed (asmText i) := by
      rw [asmText_of_cons h]
      exact (trimmed_of_not_mem (space_not_mem_mnemonicChars i)).append (operandChars_trimmed r rs)
        (mnemonicChars_ne_nil i) (operandChars_ne_nil r rs) _
    have htake : (asmText i).takeWhile (· != ' ') = mnemonicChars i := by
      rw [asmText_of_cons h, List.append_assoc, List.takeWhile_append_of_pos (mnemonicChars_ne_space i)]
      simp
    have hdrop : trimSpaces ((asmText i).dropWhile (· != ' ')) = operandChars (r :: rs) := by
      rw [asmText_of_cons h, List.append_assoc, List.dropWhile_append_of_pos (mnemonicChars_ne_space i)]
      exact (operandChars_trimmed r rs).trimSpaces_eq
    simp only [parseAsm, htrim.trimSpaces_eq, htake, hdrop, map_toUpper_mnemonicChars, operandChars_ne_nil, if_false,
      map_trimSpaces_splitCommas_operandChars, mapM_parseReg_regChars, Option.bind_some]
    rw [← h, commandOf_mnemonicChars]

/-- Settles O7: the line reads back as its command, whose word the assembler then writes. -/
theorem assemblerReadsWrittenCommands : Obligations.AssemblerReadsWrittenCommands := by
  intro i
  rw [assemble, parseAsm_asmText, Option.map_some]

end Sys2Proof.Machine
end

section
/-! PROOFS. The life of a command (40_command_lifecycle.md): its issue by a CMD write (R110, R111), the engine's turn
(R113, R115), NOP (R120), and what a result depends on (R117). -/

namespace Sys2Proof.Machine

variable {s s' : State}

/-! ### The engine's turn (R113, R115) -/

/-- Settles O8: a turn of the engine with a legal word in flight is `exec`, and taking the event off the list leaves the
word in flight. -/
theorem stepRunsDecodedCommand : Obligations.StepRunsDecodedCommand := by
  intro s f i hf hd
  constructor
  · intro hin
    rw [step_nil s hin, engineStep_command hf hd]
  · intro rest hin
    rw [step_cons s hin]
    exact engineStep_command (s := { s with inputs := rest }) hf hd

/-- With nothing in flight the engine has no step, and the state is retained (60_exceptions.md R226). -/
theorem engineStep_idle (hb : s.busy = false) : engineStep s = .next s := by
  simp only [engineStep, s.not_busy_iff.mp hb]

/-- Settles O10: with no event listed the step is the turn of an engine that has nothing to do. -/
theorem idleBlockRetainsState : Obligations.IdleBlockRetainsState := by
  intro s hb hin
  rw [step_nil s hin, engineStep_idle hb]

/-! ### The CMD write (R110, R111) -/

/-- After an issue `irq` is left to ERR, since DONE is 0 (60_exceptions.md R215). -/
theorem State.irq_issue (s : State) (cw : Word) : (s.issue cw).irq = (s.ie && s.err) := by
  rw [State.irq, State.issue_ie, State.issue_done, State.issue_err, Bool.false_or]

/-- `HW CMD, cw` to a busy block is dropped (10_state.md R39). -/
theorem State.hostStep_cmd_busy (hb : s.busy = true) (cw : Word) :
    s.hostStep (hostWrite .cmd cw) = { s with ovr := true, rsp := some .writeOk } := by
  rw [s.hostStep_hostWrite, State.writeRegister, s.busyProtected_busy hb]

/-- Settles O14: the write is an issue, which puts the word in flight and clears DONE. -/
theorem issueFlags : Obligations.IssueFlags := by
  intro s cw hb
  rw [State.hostStep_cmd_idle hb]
  exact ⟨rfl, rfl, rfl, rfl, rfl, rfl, s.irq_issue cw⟩

/-- Settles O15: the write is an issue of an idle block, whatever the word, and one that a busy block drops. -/
theorem cmdWriteIssues : Obligations.CmdWriteIssues := by
  refine fun s cw => ⟨s.answer_hostWrite .cmd cw, fun hb => ?_, fun hb => State.hostStep_cmd_busy hb cw⟩
  rw [State.hostStep_cmd_idle hb]
  exact ⟨rfl, rfl, rfl, rfl, rfl, rfl, rfl, rfl, rfl, fun r => s.reg_issue cw r, ⟨rfl, rfl⟩,
    fun a => s.bufByte_issue cw a⟩

/-! ### NOP (R120) -/

/-- Opcode 0 is NOP's alone (30_encoding.md R93). -/
theorem eq_nop_of_opc {i : Instr} (h : (encodeFields i).opc = 0#8) : i = .nop := by
  cases i with
  | nop => rfl
  | _ => simp [encodeFields] at h

/-- A legal word of opcode 0 is the word 0. -/
theorem eq_zero_of_decode_of_opc {cw : Word} {i : Instr} (hopc : cw.extractLsb' 0 8 = 0#8)
    (hd : decode cw = .command i) : cw = 0#32 := by
  have hcw : encode i = cw := decode_eq_command_iff.mp hd
  have hi : i = .nop := eq_nop_of_opc <| calc
    (encodeFields i).opc = (CommandFields.ofWord (encode i)).opc := by rw [CommandFields.ofWord_encode]
    _ = 0#8 := by rw [hcw]; exact hopc
  rw [← hcw, hi]
  rfl

/-- Settles O33: a legal word of opcode 0 is NOP's, and NOP commits the empty update. -/
theorem nopCompletes : Obligations.NopCompletes :=
  ⟨rfl, fun _ hopc hne _ hd => hne (eq_zero_of_decode_of_opc hopc hd), fun s =>
    ⟨(s.issued .nop).commit {}, exec_issued s .nop, State.commit_completedOk _ {},
      fun r => (s.issued .nop).reg_commit_none rfl r, ⟨rfl, rfl⟩, fun a => (s.issued .nop).bufByte_commit {} a⟩⟩

/-! ### What a result depends on (R117) -/

theorem SameBuf.bufBit (h : SameBuf s s') (p : Nat) : s'.bufBit p = s.bufBit p := by
  rw [State.bufBit, h, State.bufBit]

theorem SameBuf.setBit (h : SameBuf s s') (p : Nat) : SameBuf (s.setBit p) (s'.setBit p) := by
  intro a
  rw [State.setBit, State.setBit, h]
  by_cases ha : a = p / 8
  · rw [ha, State.bufByte_setByte_same, State.bufByte_setByte_same]
  · rw [State.bufByte_setByte_other _ _ ha, State.bufByte_setByte_other _ _ ha, h]

/-- Setting the same bits keeps two BUFs the same, even where the free bytes date from different resets. -/
theorem SameBuf.setAll (h : SameBuf s s') (ps : List Nat) : SameBuf (s.setAll ps) (s'.setAll ps) := by
  induction ps generalizing s s' with
  | nil => exact h
  | cons p ps ih => exact ih (h.setBit p)

theorem State.checkField_congr (hcfg : s'.cfg = s.cfg) (c w : Nat) (u : Update) :
    s'.checkField c w u = s.checkField c w u := by
  rw [State.checkField, State.bufBits, hcfg, State.checkField, State.bufBits]

/-- Beyond its captured operands a command reads only BUF, for the field of RDBITS, and BUF_BYTES, for the bounds of a
field (R115). -/
theorem execResult_congr (hcfg : s'.cfg = s.cfg) (hbuf : SameBuf s s') (i : Instr) (ops : Operands) :
    execResult i s' ops = execResult i s ops := by
  cases i with
  | rdbits rd rs1 =>
    have hfield : s'.field ops.rc.toNat ops.s1.toNat = s.field ops.rc.toNat ops.s1.toNat :=
      State.field_congr fun p _ _ => hbuf.bufBit p
    simp only [execResult, rdbitsResult, hfield, State.checkField_congr hcfg]
  | wrbits rs1 rs2 => exact State.checkField_congr hcfg _ _ _
  | nop | bitlen | clz | modmul | modred | modexp | modinv => rfl

/-- The completion of one result leaves the same registers, cursors and BUF where they were the same (R114). -/
theorem State.finish_congr (hregs : s'.regs = s.regs) (hrcur : s'.rcur = s.rcur) (hwcur : s'.wcur = s.wcur)
    (hbuf : SameBuf s s') (cw : Word) (res : ExecResult) :
    SameRegisters (s.finish cw res) (s'.finish cw res) ∧ SameCursors (s.finish cw res) (s'.finish cw res) ∧
      SameBuf (s.finish cw res) (s'.finish cw res) := by
  cases res with
  | ok u =>
    refine ⟨State.reg_congr (congrArg (applyReg · u.reg) hregs),
      ⟨congrArg u.rcur.getD hrcur, congrArg u.wcur.getD hwcur⟩, fun a => ?_⟩
    rw [State.finish, State.finish, State.bufByte_commit, State.bufByte_commit, hbuf.setAll]
  | err code => exact ⟨State.reg_congr hregs, ⟨hrcur, hwcur⟩, hbuf⟩

/-- With its command in flight, `exec` answers the completion of the command's result. -/
theorem exec_of_inflight {f : InFlight} (hf : s.inflight = some f) (i : Instr) :
    exec i s = .next (s.finish f.cw (execResult i s f.ops)) := by
  rw [exec_eq_complete, s.complete_of_inflight hf]

/-- Settles O56: both states complete the same word with the same result, since a result depends on nothing in which
they differ. -/
theorem resultsIndependentOfFlags : Obligations.ResultsIndependentOfFlags := by
  intro i s s' t t' hinflight hregs hrcur hwcur hcfg hbuf h h'
  obtain ⟨f, hf, -⟩ := exec_next s h
  rw [exec_of_inflight hf] at h
  rw [exec_of_inflight (hinflight.trans hf), execResult_congr hcfg hbuf] at h'
  obtain rfl := Host.Outcome.next.inj h
  obtain rfl := Host.Outcome.next.inj h'
  exact State.finish_congr hregs hrcur hwcur hbuf f.cw _

end Sys2Proof.Machine
end

section
/-! PROOFS. The bit width of a word (41_bitwidth.md R130, R131), and the commands that write it: BITLEN (R130) and CLZ
(R132). -/

namespace Sys2Proof.Machine

/-! ### The scan (R130, R131) -/

/-- Bit `n` of a word is the top bit of its value modulo `2 ^ (n + 1)`. -/
theorem toNat_mod_two_pow_succ (v : Word) (n : Nat) :
    v.toNat % 2 ^ (n + 1) = v.toNat % 2 ^ n + 2 ^ n * (v.getLsbD n).toNat := by
  rw [Nat.mod_pow_succ, BitVec.getLsbD, Nat.toNat_testBit]

/-- The scan from bit `n - 1` downward gives the width of the value modulo `2 ^ n`. -/
theorem bitScan_eq (v : Word) (n : Nat) :
    bitScan v n = if v.toNat % 2 ^ n = 0 then 0 else Nat.log2 (v.toNat % 2 ^ n) + 1 := by
  induction n with
  | zero => rw [bitScan, pow_zero, Nat.mod_one, if_pos rfl]
  | succ n ih =>
    have hmod := toNat_mod_two_pow_succ v n
    rw [bitScan]
    cases hbit : v.getLsbD n with
    | false =>
      simp only [hbit, Bool.toNat_false, Nat.mul_zero, Nat.add_zero] at hmod
      rw [hmod, if_neg Bool.false_ne_true, ih]
    | true =>
      rw [hbit, Bool.toNat_true, Nat.mul_one] at hmod
      have hlow : v.toNat % 2 ^ n < 2 ^ n := Nat.mod_lt _ (Nat.two_pow_pos n)
      have hne : v.toNat % 2 ^ (n + 1) ≠ 0 := by omega
      have hlog : Nat.log2 (v.toNat % 2 ^ (n + 1)) = n := (Nat.log2_eq_iff hne).mpr ⟨by omega, by omega⟩
      rw [if_pos rfl, if_neg hne, hlog]

/-- A scan over `n` bits finds none above bit `n - 1` (R130: "The result lies in [0, 32]"). -/
theorem bitScan_le (v : Word) (n : Nat) : bitScan v n ≤ n := by
  induction n with
  | zero => exact Nat.le_refl 0
  | succ n ih =>
    rw [bitScan]
    split
    case isTrue => exact Nat.le_refl (n + 1)
    case isFalse => exact Nat.le_succ_of_le ih

/-- The oracle's closed form (R130). -/
theorem bitlength_eq (v : Word) : bitlength v = if v = 0#32 then 0 else Nat.log2 v.toNat + 1 := by
  rw [bitlength, bitScan_eq, Nat.mod_eq_of_lt v.isLt]
  exact if_congr (BitVec.toNat_inj (y := 0#32)) rfl rfl

/-- The closed form of the leading-zero count (R132). -/
theorem W_sub_bitlength_eq (v : Word) : W - bitlength v = if v = 0#32 then 32 else 31 - Nat.log2 v.toNat := by
  rw [bitlength_eq]
  split
  case isTrue => rfl
  case isFalse => exact Nat.add_sub_add_right 31 1 _

/-! ### The completion of a command that writes one register (40_command_lifecycle.md R114) -/

/-- A command whose result is one register write completes with that value in its destination, and leaves the other
registers, the cursors and BUF as they were when it was issued. -/
theorem exec_issued_register (s : State) {i : Instr} {rd : Reg} {v : Word}
    (h : execResult i (s.issued i) (s.captureOps (encode i)) = .ok { reg := some (rd, v) }) :
    ∃ t, exec i (s.issued i) = .next t ∧ CompletedOk (s.issued i) t ∧ t.reg rd = v ∧
      OnlyRegister rd s t ∧ SameCursors s t ∧ SameBuf s t := by
  refine ⟨(s.issued i).commit { reg := some (rd, v) }, ?_, State.commit_completedOk _ _, State.reg_commit_same _ rfl,
    fun r hr => (s.issued i).reg_commit_other rfl hr, ⟨rfl, rfl⟩, fun a => (s.issued i).bufByte_commit _ a⟩
  rw [exec_issued, h, State.finish]

/-- The same for a command that writes a count of bits, which is at most 32 and so fits its register. -/
theorem exec_issued_count (s : State) {i : Instr} {rd : Reg} {k : Nat} (hk : k ≤ W)
    (h : execResult i (s.issued i) (s.captureOps (encode i)) = .ok { reg := some (rd, BitVec.ofNat 32 k) }) :
    ∃ t, exec i (s.issued i) = .next t ∧ CompletedOk (s.issued i) t ∧ (t.reg rd).toNat = k ∧
      OnlyRegister rd s t ∧ SameCursors s t ∧ SameBuf s t := by
  obtain ⟨t, ht, hok, hreg, hframe⟩ := exec_issued_register s h
  refine ⟨t, ht, hok, ?_, hframe⟩
  rw [hreg, BitVec.toNat_ofNat, Nat.mod_eq_of_lt (hk.trans_lt (by decide))]

end Sys2Proof.Machine

/-! ### The statements

These names belong to the commands' results in `Sys2Proof.Machine`, so the theorems stand outside it. -/

namespace Sys2Proof.BitWidth

open Sys2Proof.Machine

/-- Settles O34: the result is the oracle's count for the operand captured at issue. -/
theorem bitlenResult : Obligations.BitlenResult := by
  intro s rd rs1
  rw [← bitlength_eq]
  refine exec_issued_count s (bitScan_le _ W) ?_
  rw [State.captureOps_bitlen, execResult, Machine.bitlenResult, bitlength]

/-- Settles O35: the result is what that count leaves of 32. -/
theorem clzResult : Obligations.ClzResult := by
  intro s rd rs1
  rw [← W_sub_bitlength_eq]
  refine exec_issued_count s (Nat.sub_le W _) ?_
  rw [State.captureOps_clz, execResult, Machine.clzResult]

end Sys2Proof.BitWidth
end

section
/-! PROOFS. Modular arithmetic (42_modarith.md): the exact power of the square-and-multiply loop (R146), the RSA law (R149),
and the commands that write a residue: MODMUL (R140), MODRED (R143) and MODEXP (R146). -/

namespace Sys2Proof.Machine

/-! ### The double-width value (R143) -/

theorem toNat_append_eq_doubleWord (hi lo : Word) : (hi ++ lo).toNat = doubleWord hi lo := by
  rw [BitVec.toNat_append, ← Nat.shiftLeft_add_eq_or_of_lt lo.isLt, Nat.shiftLeft_eq, doubleWord]

/-! ### The square-and-multiply loop (R146) -/

/-- One turn of the loop: the square, times `a` where the bit of `b` is set, reduced. -/
theorem modexpLoop_succ (a b n i D : Nat) :
    modexpLoop a b n (i + 1) D = modexpLoop a b n i (D * D * a ^ (b.testBit i).toNat % n) := by
  rw [modexpLoop]
  cases b.testBit i with
  | false => rw [if_neg Bool.false_ne_true, Bool.toNat_false, pow_zero, mul_one]
  | true => rw [if_pos rfl, Bool.toNat_true, pow_one, Nat.mod_mul_mod]

/-- From a reduced `D`, the loop over the low `i` bits of `b` squares `D` `i` times and multiplies in their power of `a`. -/
theorem modexpLoop_mod (a b n i D : Nat) :
    modexpLoop a b n i (D % n) = D ^ 2 ^ i * a ^ (b % 2 ^ i) % n := by
  induction i generalizing D with
  | zero => rw [modexpLoop, pow_zero, Nat.mod_one, pow_one, pow_zero, mul_one]
  | succ i ih =>
    have hbits : b % 2 ^ (i + 1) = (b.testBit i).toNat * 2 ^ i + b % 2 ^ i := by
      rw [Nat.mod_pow_succ, Nat.toNat_testBit, add_comm, mul_comm]
    have hturn : D % n * (D % n) * a ^ (b.testBit i).toNat ≡ D * D * a ^ (b.testBit i).toNat [MOD n] :=
      ((Nat.mod_modEq D n).mul (Nat.mod_modEq D n)).mul_right _
    calc modexpLoop a b n (i + 1) (D % n)
        = modexpLoop a b n i (D * D * a ^ (b.testBit i).toNat % n) := by rw [modexpLoop_succ, hturn]
      _ = (D * D * a ^ (b.testBit i).toNat) ^ 2 ^ i * a ^ (b % 2 ^ i) % n := ih _
      _ = D ^ 2 ^ (i + 1) * a ^ (b % 2 ^ (i + 1)) % n := by
        rw [hbits, pow_add a, pow_mul, mul_pow, ← sq, ← pow_mul D, ← pow_succ', mul_assoc]

/-- The first turn reduces, so the loop from 1 over all bits of `b` gives the exact power, for `n = 1` too. -/
theorem modexpLoop_one {a b n i : Nat} (hb : b < 2 ^ (i + 1)) : modexpLoop a b n (i + 1) 1 = a ^ b % n := by
  have hreduced : modexpLoop a b n (i + 1) 1 = modexpLoop a b n (i + 1) (1 % n) := by
    have hsq : 1 * 1 ≡ 1 % n * (1 % n) [MOD n] := (Nat.mod_modEq 1 n).symm.mul (Nat.mod_modEq 1 n).symm
    rw [modexpLoop_succ, modexpLoop_succ, hsq.mul_right]
  rw [hreduced, modexpLoop_mod, one_pow, one_mul, Nat.mod_eq_of_lt hb]

/-- `a^b mod n`, with `0^0 = 1` (R146). -/
theorem modexp_eq (a n : Nat) (b : Word) : modexp a b.toNat n = a ^ b.toNat % n :=
  modexpLoop_one (i := 31) b.isLt

/-- MODEXP's result is the residue of the exact power (R146, R148). -/
theorem modexpResult_eq_residueResult (rd : Reg) (ops : Operands) :
    modexpResult rd ops = residueResult rd ops.s3 (ops.s1.toNat ^ ops.s2.toNat) := by
  rw [modexpResult, modexp_eq, residueResult]

/-! ### The RSA law (R149) -/

/-- Fermat's theorem for every base: an exponent that is 1 modulo `p - 1`, and not 0, keeps the residue modulo `p`. -/
theorem pow_modEq_self {p m : Nat} (a : Nat) (hp : p.Prime) (hm : m ≠ 0) (h : m ≡ 1 [MOD p - 1]) :
    a ^ m ≡ a [MOD p] := by
  rcases Nat.coprime_or_dvd_of_prime hp a with hcop | hdvd
  · have htotient := fun k => Nat.pow_totient_mod (k := k) hp.one_lt hcop.symm
    rw [Nat.totient_prime hp] at htotient
    calc a ^ m % p = a ^ (m % (p - 1)) % p := htotient m
      _ = a ^ (1 % (p - 1)) % p := by rw [h]
      _ = a ^ 1 % p := (htotient 1).symm
      _ = a % p := by rw [pow_one]
  · exact (Nat.modEq_zero_iff_dvd.mpr (dvd_pow hdvd hm)).trans (Nat.modEq_zero_iff_dvd.mpr hdvd).symm

/-- Distinct `p` and `q` are not both 2, so an exponent that is 1 modulo `(p - 1) * (q - 1)` is not 0. -/
theorem ne_zero_of_modEq_one {p q m : Nat} (hpq : p ≠ q) (h : m ≡ 1 [MOD (p - 1) * (q - 1)]) : m ≠ 0 := by
  rintro rfl
  have hone : (p - 1) * (q - 1) = 1 := Nat.dvd_one.mp (Nat.modEq_zero_iff_dvd.mp h.symm)
  obtain ⟨hp1, hq1⟩ := mul_eq_one.mp hone
  omega

/-- The arithmetic of the law: such an exponent keeps every residue modulo `p * q`. -/
theorem pow_modEq_self_of_distinct_primes {p q m : Nat} (a : Nat) (hp : p.Prime) (hq : q.Prime) (hpq : p ≠ q)
    (h : m ≡ 1 [MOD (p - 1) * (q - 1)]) : a ^ m ≡ a [MOD p * q] := by
  have hm := ne_zero_of_modEq_one hpq h
  refine (Nat.modEq_and_modEq_iff_modEq_mul ((Nat.coprime_primes hp hq).mpr hpq)).mp ⟨?_, ?_⟩
  · exact pow_modEq_self a hp hm h.of_mul_right
  · exact pow_modEq_self a hq hm h.of_mul_left

/-! ### The completion of a command that writes a residue (R142, R148) -/

/-- A command whose result fails completes with that error, which is precise (60_exceptions.md R205, R206). -/
theorem exec_issued_error (s : State) {i : Instr} {e : ErrCode}
    (h : execResult i (s.issued i) (s.captureOps (encode i)) = .err e) :
    ∃ t, exec i (s.issued i) = .next t ∧ FailedWith (encode i) e.value (s.issued i) t := by
  refine ⟨(s.issued i).errorCompletion (encode i) e, ?_, State.errorCompletion_failedWith _ _ e⟩
  rw [exec_issued, h, State.finish]

/-- A command whose result is the residue of `v` modulo `n` writes it exactly, since it is below `n`, and completes with
MODZERO for `n = 0`. -/
theorem exec_issued_residue (s : State) {i : Instr} {rd : Reg} {n : Word} {v : Nat}
    (h : execResult i (s.issued i) (s.captureOps (encode i)) = residueResult rd n v) :
    (n ≠ 0#32 → ∃ t, exec i (s.issued i) = .next t ∧ CompletedOk (s.issued i) t ∧ (t.reg rd).toNat = v % n.toNat ∧
      OnlyRegister rd s t ∧ SameCursors s t ∧ SameBuf s t) ∧
    (n = 0#32 → ∃ t, exec i (s.issued i) = .next t ∧ FailedWith (encode i) 2#4 (s.issued i) t) := by
  constructor
  · intro hn
    rw [residueResult, if_neg hn] at h
    obtain ⟨t, ht, hok, hreg, hframe⟩ := exec_issued_register s h
    refine ⟨t, ht, hok, ?_, hframe⟩
    have hpos : 0 < n.toNat := Nat.pos_of_ne_zero (BitVec.toNat_ne_iff_ne.mpr hn)
    rw [hreg, BitVec.toNat_ofNat, Nat.mod_eq_of_lt ((Nat.mod_lt v hpos).trans n.isLt)]
  · intro hn
    rw [residueResult, if_pos hn] at h
    exact exec_issued_error s h

end Sys2Proof.Machine

/-! ### The statements

As for the bit widths, these names belong to the commands' results in `Sys2Proof.Machine`. -/

namespace Sys2Proof.ModArith

open Sys2Proof.Machine

/-- Settles O36: the result is the residue of the exact product of the operands captured at issue. -/
theorem modmulResult : Obligations.ModmulResult := by
  refine fun s rd rs1 rs2 rs3 => exec_issued_residue s ?_
  rw [State.captureOps_modmul, execResult, Machine.modmulResult]

/-- Settles O37: the result is the residue of the concatenation's value. -/
theorem modredResult : Obligations.ModredResult := by
  refine fun s rd rs1 rs2 rs3 => exec_issued_residue s ?_
  rw [State.captureOps_modred, execResult, Machine.modredResult, toNat_append_eq_doubleWord]

/-- Settles O38: the two halves concatenate to the product, so both commands write its residue. -/
theorem modmulAgreesWithModred : Obligations.ModmulAgreesWithModred := by
  intro s t rd rs1 rs2 rs3 rd' hi lo n hn htn hhi hlo
  obtain ⟨s', hs', -, hmul, -⟩ := (modmulResult s rd rs1 rs2 rs3).1 hn
  obtain ⟨t', ht', -, hred, -⟩ := (modredResult t rd' hi lo n).1 (htn ▸ hn)
  refine ⟨s', t', hs', ht', BitVec.eq_of_toNat_eq ?_⟩
  rw [hmul, hred, htn, toNat_append_eq_doubleWord, doubleWord, hhi, hlo, Nat.div_add_mod']

/-- Settles O39: the loop's result is the residue of the exact power. -/
theorem modexpResult : Obligations.ModexpResult := by
  refine fun s rd rs1 rs2 rs3 => exec_issued_residue s ?_
  rw [State.captureOps_modexp, execResult, modexpResult_eq_residueResult]

/-- Settles O40: the second result is the residue of `a ^ (e * d)`, which is `a`. -/
theorem rsaLaw : Obligations.RsaLaw := by
  intro s p q ra re rx rn rt ru hp hq hpq hrx hrn hn ha hed
  have hne : s.reg rn ≠ 0#32 := BitVec.toNat_ne_iff_ne.mp (hn ▸ (Nat.mul_pos hp.pos hq.pos).ne')
  obtain ⟨t, ht, -, hfirst, honly, -⟩ := (modexpResult s rt ra re rn).1 hne
  have htx : t.reg rx = s.reg rx := honly rx hrx.symm
  have htn : t.reg rn = s.reg rn := honly rn hrn.symm
  obtain ⟨u, hu, -, hsecond, -⟩ := (modexpResult t ru rt rx rn).1 (htn ▸ hne)
  refine ⟨t, u, ht, hu, BitVec.eq_of_toNat_eq ?_⟩
  calc (u.reg ru).toNat
      = ((s.reg ra).toNat ^ (s.reg re).toNat % (p * q)) ^ (s.reg rx).toNat % (p * q) := by
        rw [hsecond, hfirst, htx, htn, hn]
    _ = (s.reg ra).toNat ^ ((s.reg re).toNat * (s.reg rx).toNat) % (p * q) := by rw [← Nat.pow_mod, pow_mul]
    _ = (s.reg ra).toNat % (p * q) := pow_modEq_self_of_distinct_primes _ hp hq hpq hed
    _ = (s.reg ra).toNat := Nat.mod_eq_of_lt ha

end Sys2Proof.ModArith
end

section
/-! PROOFS. The modular inverse (43_inverse.md): what the loop of R161 computes, the inverse it gives (R160, R162), and
MODINV. -/

namespace Sys2Proof.Machine

/-! ### The extended-Euclidean loop (R161) -/

/-- A turn of the loop that does not end it. -/
theorem euclid_turn {fuel : Nat} {x2 y2 : Int} {x3 y3 : Nat} (h0 : y3 ≠ 0) (h1 : y3 ≠ 1) :
    euclid (fuel + 1) x2 y2 x3 y3 = euclid fuel y2 (x2 - (x3 / y3 : Nat) * y2) y3 (x3 % y3) := by
  rw [euclid, if_neg h0, if_neg h1]

/-- Subtracting the quotient's multiple of `(y2, y3)` from `(x2, x3)` keeps the invariant of R161. -/
theorem turn_modEq {m d x2 y2 : Int} {x3 y3 : Nat} (hx : x2 * d ≡ x3 [ZMOD m]) (hy : y2 * d ≡ y3 [ZMOD m]) :
    (x2 - (x3 / y3 : Nat) * y2) * d ≡ (x3 % y3 : Nat) [ZMOD m] := by
  have hmod : ((x3 % y3 : Nat) : Int) = x3 - (x3 / y3 : Nat) * y3 := by
    rw [eq_sub_iff_add_eq, mul_comm]
    exact_mod_cast Nat.mod_add_div x3 y3
  rw [hmod, sub_mul, mul_assoc]
  exact hx.sub (hy.mul_left _)

/-- Under the invariants of R161, a coefficient the loop returns is an inverse of `d` modulo `m`. -/
theorem euclid_modEq_one {m d x2 y2 y : Int} {fuel x3 y3 : Nat} (hx : x2 * d ≡ x3 [ZMOD m])
    (hy : y2 * d ≡ y3 [ZMOD m]) (h : euclid fuel x2 y2 x3 y3 = some y) : y * d ≡ 1 [ZMOD m] := by
  induction fuel generalizing x2 y2 x3 y3 with
  | zero => cases h
  | succ fuel ih =>
    by_cases h0 : y3 = 0
    · rw [euclid, if_pos h0] at h
      cases h
    by_cases h1 : y3 = 1
    · rw [euclid, if_neg h0, if_pos h1] at h
      cases h
      simpa [h1] using hy
    · rw [euclid_turn h0 h1] at h
      exact ih hy (turn_modEq hx hy) h

/-- With fuel above the remainder `y3`, the loop ends without a coefficient exactly when the gcd is not 1. The older
remainder must not be 1: the loop ends at its first 1, which the initial `f > 1` is not. -/
theorem euclid_eq_none_iff {x2 y2 : Int} {fuel x3 y3 : Nat} (hfuel : y3 < fuel) (hx3 : x3 ≠ 1) :
    euclid fuel x2 y2 x3 y3 = none ↔ Nat.gcd y3 x3 ≠ 1 := by
  induction fuel generalizing x2 y2 x3 y3 with
  | zero => exact absurd hfuel (Nat.not_lt_zero y3)
  | succ fuel ih =>
    by_cases h0 : y3 = 0
    · rw [euclid, if_pos h0, h0, Nat.gcd_zero_left]
      exact iff_of_true rfl hx3
    by_cases h1 : y3 = 1
    · rw [euclid, if_neg h0, if_pos h1, h1, Nat.gcd_one_left]
      exact iff_of_false (Option.some_ne_none y2) (not_not_intro rfl)
    · have hrem : x3 % y3 < y3 := Nat.mod_lt x3 (Nat.pos_of_ne_zero h0)
      rw [euclid_turn h0 h1, Nat.gcd_rec]
      exact ih (hrem.trans_le (Nat.le_of_lt_succ hfuel)) h1

/-! ### The inverse (R160, R162) -/

theorem modInverse_of_gcd_ne_one {d f : Nat} (hf : 1 < f) (h : Nat.gcd d f ≠ 1) : modInverse d f = 0 := by
  rw [modInverse, (euclid_eq_none_iff d.lt_succ_self hf.ne').mpr h]

/-- For coprime `d` and `f` the loop ends with an inverse of `d`, and its residue is the result. -/
theorem modInverse_of_gcd_eq_one {d f : Nat} (hf : 1 < f) (h : Nat.gcd d f = 1) :
    ∃ y : Int, y * d ≡ 1 [ZMOD f] ∧ (modInverse d f : Int) = y % f := by
  have hsome : euclid (d + 1) 0 1 f d ≠ none := fun hnone => (euclid_eq_none_iff d.lt_succ_self hf.ne').mp hnone h
  obtain ⟨y, hy⟩ := Option.ne_none_iff_exists'.mp hsome
  have hf0 : 0 * (d : Int) ≡ f [ZMOD f] := by simp [Int.ModEq]
  have hd1 : 1 * (d : Int) ≡ d [ZMOD f] := by rw [one_mul]
  refine ⟨y, euclid_modEq_one hf0 hd1 hy, ?_⟩
  rw [modInverse, hy]
  exact Int.toNat_of_nonneg (Int.emod_nonneg y (by omega))

theorem modInverse_lt {d f : Nat} (hf : 1 < f) : modInverse d f < f := by
  by_cases h : Nat.gcd d f = 1
  · obtain ⟨y, -, hres⟩ := modInverse_of_gcd_eq_one hf h
    have hlt : y % (f : Int) < f := Int.emod_lt_of_pos y (by omega)
    omega
  · rw [modInverse_of_gcd_ne_one hf h]
    exact Nat.zero_lt_of_lt hf

theorem modInverse_mul_mod {d f : Nat} (hf : 1 < f) (h : Nat.gcd d f = 1) : modInverse d f * d % f = 1 := by
  obtain ⟨y, hy, hres⟩ := modInverse_of_gcd_eq_one hf h
  have hinv : ((modInverse d f * d : Nat) : Int) ≡ (1 : Nat) [ZMOD f] := by
    rw [Nat.cast_mul, hres]
    exact ((Int.mod_modEq y f).mul_right d).trans hy
  exact Nat.mod_eq_of_modEq (Int.natCast_modEq_iff.mp hinv) hf

/-- Two inverses of `d` modulo `f` that are below `f` are equal. -/
theorem inverse_unique {d f x y : Nat} (h : Nat.gcd d f = 1) (hx : x < f) (hy : y < f) (hxd : x * d % f = 1)
    (hyd : y * d % f = 1) : x = y := by
  have hmul : x * d ≡ y * d [MOD f] := hxd.trans hyd.symm
  exact (hmul.cancel_right_of_coprime ((Nat.gcd_comm f d).trans h)).eq_of_lt_of_lt hx hy

/-! ### The completion of MODINV (R160) -/

/-- For `f > 1` the inverse or the sentinel is below `f`, so it fits its register. -/
theorem exec_issued_modinv (s : State) (rd rs1 rs2 : Reg) (hf : 1 < (s.reg rs2).toNat) :
    ∃ t, exec (.modinv rd rs1 rs2) (s.issued (.modinv rd rs1 rs2)) = .next t ∧
      CompletedOk (s.issued (.modinv rd rs1 rs2)) t ∧
      (t.reg rd).toNat = modInverse (s.reg rs1).toNat (s.reg rs2).toNat ∧
      OnlyRegister rd s t ∧ SameCursors s t ∧ SameBuf s t := by
  obtain ⟨t, ht, hok, hreg, hframe⟩ := exec_issued_register s (i := .modinv rd rs1 rs2) (rd := rd)
    (v := BitVec.ofNat 32 (modInverse (s.reg rs1).toNat (s.reg rs2).toNat))
    (by rw [State.captureOps_modinv, execResult, modinvResult, if_neg hf.not_ge])
  refine ⟨t, ht, hok, ?_, hframe⟩
  rw [hreg, BitVec.toNat_ofNat, Nat.mod_eq_of_lt ((modInverse_lt hf).trans (s.reg rs2).isLt)]

end Sys2Proof.Machine

/-! ### The statements

As for the bit widths, these names belong to the commands' results in `Sys2Proof.Machine`. -/

namespace Sys2Proof.Inverse

open Sys2Proof.Machine

/-- Settles O41: the loop's residue is the one inverse below `f`; a loop that ends without a coefficient leaves 0. -/
theorem modinvResult : Obligations.ModinvResult := by
  refine fun s rd rs1 rs2 => ⟨fun hf => ?_, fun hf => ?_⟩
  · obtain ⟨t, ht, hok, hreg, hframe⟩ := exec_issued_modinv s rd rs1 rs2 hf
    refine ⟨t, ht, hok, fun hgcd => ?_, fun hgcd => ?_, hframe⟩
    · rw [hreg]
      have hlt := modInverse_lt (d := (s.reg rs1).toNat) hf
      have hinv := modInverse_mul_mod hf hgcd
      exact ⟨hlt, hinv, fun x hx hxd => inverse_unique hgcd hx hlt hxd hinv⟩
    · exact BitVec.eq_of_toNat_eq (hreg.trans (modInverse_of_gcd_ne_one hf hgcd))
  · refine exec_issued_error s (e := .invMod) ?_
    rw [State.captureOps_modinv, execResult, Machine.modinvResult, if_pos hf]

/-- Settles O42: 0 is no inverse, since `0 * d` is 0 modulo `f`. -/
theorem modinvSentinel : Obligations.ModinvSentinel := by
  intro s rd rs1 rs2 hf
  obtain ⟨t, ht, -, hinverse, hnone, -⟩ := (modinvResult s rd rs1 rs2).1 hf
  refine ⟨t, ht, fun hzero hgcd => ?_, hnone⟩
  obtain ⟨-, hone, -⟩ := hinverse hgcd
  simp [hzero] at hone

end Sys2Proof.Inverse
end

section
/-! PROOFS. The bit packer and unpacker (44_bitstream.md): the result of a field that fits, bit by bit, its failures, and
the round trip of packing and unpacking (R170 to R176). -/

namespace Sys2Proof.Machine

variable (s : State)

/-! ### The value and the bits of a field (R170, R171, R174) -/

/-- Bit `k` of a field's value is its `k`-th bit of BUF, and 0 from the width on. -/
theorem State.testBit_field (c w k : Nat) : (s.field c w).testBit k = (decide (k < w) && s.bufBit (c + k)) := by
  induction w with
  | zero => simp [State.field]
  | succ w ih =>
    rw [State.field, Nat.add_comm, Nat.mul_comm, Nat.testBit_two_pow_mul_add _ (s.field_lt c w)]
    by_cases hlt : k < w
    · rw [if_pos hlt, ih, decide_eq_true hlt, decide_eq_true (hlt.trans w.lt_succ_self)]
    · have hlast : k - w = 0 ↔ k < w + 1 := by omega
      rw [if_neg hlt, Nat.testBit_bool_toNat, decide_eq_decide.mpr hlast]
      by_cases hk : k < w + 1
      · obtain rfl := Nat.eq_of_lt_succ_of_not_lt hk hlt
        rfl
      · rw [decide_eq_false hk, Bool.false_and, Bool.false_and]

/-- A field whose bits are the low bits of a word holds that word modulo `2^w`. -/
theorem State.field_eq_mod {v : Word} {c w : Nat} (h : ∀ k < w, s.bufBit (c + k) = v.getLsbD k) :
    s.field c w = v.toNat % 2 ^ w := by
  refine Nat.eq_of_testBit_eq fun k => ?_
  rw [s.testBit_field, Nat.testBit_mod_two_pow]
  by_cases hk : k < w
  · rw [h k hk, BitVec.getLsbD]
  · rw [decide_eq_false hk, Bool.false_and, Bool.false_and]

/-- WRBITS ORs the low bits of its value into its field. -/
theorem State.bufBit_setAll_fieldOnes_inside (v : Word) {c w k : Nat} (h : k < w) :
    (s.setAll (fieldOnes v c w)).bufBit (c + k) = (s.bufBit (c + k) || v.getLsbD k) := by
  have hmem : c + k ∈ fieldOnes v c w ↔ v.getLsbD k = true := by
    rw [fieldOnes, mem_fieldOnes, Nat.add_sub_cancel_left]
    exact ⟨fun h' => h'.2.2, fun hv => ⟨by omega, by omega, hv⟩⟩
  simp only [s.bufBit_setAll, hmem, Bool.decide_eq_true]

/-- WRBITS sets no bit outside its field. -/
theorem State.bufBit_setAll_fieldOnes_outside (v : Word) {c w p : Nat} (h : p < c ∨ c + w ≤ p) :
    (s.setAll (fieldOnes v c w)).bufBit p = s.bufBit p := by
  have hmem : p ∉ fieldOnes v c w := fun hp => by
    obtain ⟨hlo, hhi, -⟩ := mem_fieldOnes.mp hp
    omega
  rw [s.bufBit_setAll, decide_eq_false hmem, Bool.or_false]

@[simp] theorem State.bufBit_setReg (i : Reg) (v : Word) (p : Nat) : (s.setReg i v).bufBit p = s.bufBit p := rfl

/-! ### The completion of a command with a field (R171, R172, R174) -/

variable {s}

theorem State.finish_checkField_of_fits {c w : Nat} (h : s.FieldFits c w) (cw : Word) (u : Update) :
    s.finish cw (s.checkField c w u) = s.commit u := by
  rw [s.checkField_of_fits h, State.finish]

theorem State.finish_checkField_width {c w : Nat} (h : 32 < w) (cw : Word) (u : Update) :
    FailedWith cw 4#4 s (s.finish cw (s.checkField c w u)) := by
  rw [s.checkField_width h]
  exact s.errorCompletion_failedWith cw .width

theorem State.finish_checkField_bounds {c w : Nat} (hw : w ≤ 32) (hpos : 0 < w) (hend : 8 * s.cfg.bufBytes < c + w)
    (cw : Word) (u : Update) : FailedWith cw 5#4 s (s.finish cw (s.checkField c w u)) := by
  rw [s.checkField_bounds hw hpos hend]
  exact s.errorCompletion_failedWith cw .bounds

/-- A field of legal width fails with BOUNDS where it runs past the end of BUF, and completes everywhere else (R172). -/
theorem State.finish_checkField_of_width_le {c w : Nat} (hw : w ≤ 32) (cw : Word) (u : Update) :
    (0 < w ∧ 8 * s.cfg.bufBytes < c + w → FailedWith cw 5#4 s (s.finish cw (s.checkField c w u))) ∧
    (¬ (0 < w ∧ 8 * s.cfg.bufBytes < c + w) → CompletedOk s (s.finish cw (s.checkField c w u))) := by
  refine ⟨fun ⟨hpos, hend⟩ => State.finish_checkField_bounds hw hpos hend cw u, fun h => ?_⟩
  have hfits : s.FieldFits c w := ⟨hw, fun hpos => by omega⟩
  rw [State.finish_checkField_of_fits hfits]
  exact s.commit_completedOk u

/-- A cursor never wraps (R173). -/
theorem State.FieldFits.toNat_cursor {c w : Word} (h : s.FieldFits c.toNat w.toNat) (hcfg : s.cfg.Legal) :
    (c + w).toNat = c.toNat + w.toNat := by
  obtain ⟨-, -, hmax⟩ := hcfg
  obtain ⟨-, hend⟩ := h
  have hc := c.isLt
  rw [BitVec.toNat_add, Nat.mod_eq_of_lt]
  by_cases hw : 0 < w.toNat
  · have := hend hw
    omega
  · omega

end Sys2Proof.Machine

/-! ### The results and the bounds

As for the bit widths, these names belong to the commands' results in `Sys2Proof.Machine`. -/

namespace Sys2Proof.BitStream

open Sys2Proof.Machine

/-- Settles O43: the field's value has the bits read, and the commit writes it and RCUR alone. -/
theorem rdbitsResult : Obligations.RdbitsResult := by
  intro s rd rs1 hcfg
  obtain ⟨t, ht, hvalue⟩ := exec_rdbits_next s rd rs1
  have hfinish := (exec_issued s (.rdbits rd rs1)).symm.trans ht
  rw [State.captureOps_rdbits, execResult, Machine.rdbitsResult] at hfinish
  obtain rfl := Host.Outcome.next.inj hfinish
  refine ⟨_, ht, fun hfits => ?_, fun hw => State.finish_checkField_width hw _ _,
    fun hpos hw hend => State.finish_checkField_bounds (s := s.issued _) hw hpos hend _ _⟩
  have hreg := hvalue hfits
  have hissued : (s.issued (.rdbits rd rs1)).FieldFits s.rcur.toNat (s.reg rs1).toNat := hfits
  rw [State.finish_checkField_of_fits hissued] at hreg ⊢
  refine ⟨State.commit_completedOk _ _, fun k _ => ?_, hfits.toNat_cursor hcfg, rfl,
    fun r hr => State.reg_commit_other _ rfl hr, fun a => State.bufByte_commit _ _ a⟩
  rw [BitVec.getLsbD, hreg, s.testBit_field]

/-- Settles O44: the commit sets the ones of the field and writes WCUR. -/
theorem wrbitsResult : Obligations.WrbitsResult := by
  intro s rs1 rs2 hcfg
  have ht := exec_issued s (.wrbits rs1 rs2)
  rw [State.captureOps_wrbits, execResult, Machine.wrbitsResult] at ht
  refine ⟨_, ht, fun hfits => ?_, fun hw => State.finish_checkField_width hw _ _,
    fun hpos hw hend => State.finish_checkField_bounds (s := s.issued _) hw hpos hend _ _⟩
  have hissued : (s.issued (.wrbits rs1 rs2)).FieldFits s.wcur.toNat (s.reg rs2).toNat := hfits
  rw [State.finish_checkField_of_fits hissued]
  refine ⟨State.commit_completedOk _ _, fun k hk => ?_, fun p hp => ?_, hfits.toNat_cursor hcfg, rfl,
    State.reg_commit_none _ rfl⟩
  · rw [State.bufBit_commit, State.bufBit_setAll_fieldOnes_inside _ _ hk]
    rfl
  · rw [State.bufBit_commit, State.bufBit_setAll_fieldOnes_outside _ _ hp]
    rfl

/-- Settles O50: both commands complete as the checks on their field say. -/
theorem fieldPastBufFails : Obligations.FieldPastBufFails := by
  intro s f rd rs1 rs2 hf
  exact ⟨fun hw => ⟨_, exec_of_inflight hf _, State.finish_checkField_of_width_le hw _ _⟩,
    fun hw => ⟨_, exec_of_inflight hf _, State.finish_checkField_of_width_le hw _ _⟩⟩

end Sys2Proof.BitStream

namespace Sys2Proof.Machine

/-! ### Lists of fields (R176) -/

/-- `Σ w`, the number of bits a list of fields takes. -/
def totalWidth (fields : List (Word × Word)) : Nat := (fields.map fun vw => vw.2.toNat).sum

@[simp] theorem totalWidth_nil : totalWidth [] = 0 := rfl

@[simp] theorem totalWidth_cons (vw : Word × Word) (rest : List (Word × Word)) :
    totalWidth (vw :: rest) = vw.2.toNat + totalWidth rest := by
  simp [totalWidth]

/-- Fields of legal widths that fit in BUF one after the other from bit address `c`. -/
def State.FieldsFit (s : State) (c : Nat) (fields : List (Word × Word)) : Prop :=
  (∀ vw ∈ fields, vw.2.toNat ≤ 32) ∧ (0 < totalWidth fields → c + totalWidth fields ≤ 8 * s.cfg.bufBytes)

/-- The fields stand in BUF one after the other from bit address `c`, each with the value it was given, modulo `2^w`. -/
def State.HoldsFields (s : State) : Nat → List (Word × Word) → Prop
  | _, [] => True
  | c, vw :: rest => s.field c vw.2.toNat = vw.1.toNat % 2 ^ vw.2.toNat ∧ s.HoldsFields (c + vw.2.toNat) rest

variable {s t u : State} {c m n : Nat} {vw : Word × Word} {rest fields : List (Word × Word)}

theorem State.FieldsFit.head (h : s.FieldsFit c (vw :: rest)) : s.FieldFits c vw.2.toNat := by
  obtain ⟨hw, hend⟩ := h
  rw [totalWidth_cons] at hend
  exact ⟨hw vw List.mem_cons_self, fun hpos => by omega⟩

theorem State.FieldsFit.tail (h : s.FieldsFit c (vw :: rest)) : s.FieldsFit (c + vw.2.toNat) rest := by
  obtain ⟨hw, hend⟩ := h
  rw [totalWidth_cons] at hend
  exact ⟨fun x hx => hw x (List.mem_cons_of_mem _ hx), fun hpos => by omega⟩

theorem State.FieldsFit.congr (h : s.FieldsFit c fields) (hcfg : t.cfg = s.cfg) : t.FieldsFit c fields := by
  rw [State.FieldsFit, hcfg]
  exact h

theorem State.HoldsFields.congr (h : s.HoldsFields c fields) (hbuf : SameBuf s t) : t.HoldsFields c fields := by
  induction fields generalizing c with
  | nil => trivial
  | cons vw rest ih =>
    obtain ⟨hhead, htail⟩ := h
    exact ⟨(State.field_congr fun p _ _ => hbuf.bufBit p).trans hhead, ih htail⟩

/-! ### Packing -/

/-- What packing `n` bits does besides storing them: WCUR moves by `n`, and no bit below WCUR changes. -/
structure Packs (s t : State) (n : Nat) : Prop where
  cfg : t.cfg = s.cfg
  err : t.err = s.err
  rcur : t.rcur = s.rcur
  wcur : t.wcur.toNat = s.wcur.toNat + n
  below : ∀ p < s.wcur.toNat, t.bufBit p = s.bufBit p

theorem Packs.refl (s : State) : Packs s s 0 := ⟨rfl, rfl, rfl, rfl, fun _ _ => rfl⟩

theorem Packs.trans (h : Packs s t m) (h' : Packs t u n) : Packs s u (m + n) where
  cfg := h'.cfg.trans h.cfg
  err := h'.err.trans h.err
  rcur := h'.rcur.trans h.rcur
  wcur := by rw [h'.wcur, h.wcur, Nat.add_assoc]
  below p hp := (h'.below p (by rw [h.wcur]; omega)).trans (h.below p hp)

/-- Packing one field into zeroed bits stores its value and changes no bit beyond it. -/
theorem packOne_of_zeroed (hcfg : s.cfg.Legal) (hfits : s.FieldFits s.wcur.toNat vw.2.toNat)
    (hzero : ∀ k < vw.2.toNat, s.bufBit (s.wcur.toNat + k) = false) :
    ∃ t, packOne s vw = some t ∧ Packs s t vw.2.toNat ∧
      t.field s.wcur.toNat vw.2.toNat = vw.1.toNat % 2 ^ vw.2.toNat ∧
      ∀ p, s.wcur.toNat + vw.2.toNat ≤ p → t.bufBit p = s.bufBit p := by
  obtain ⟨t, ht, hok, -, -⟩ := BitStream.wrbitsResult ((s.setReg 1 vw.1).setReg 2 vw.2) 1 2 hcfg
  rw [State.reg_setReg_same, State.reg_setReg_other _ _ (by decide), State.reg_setReg_same] at hok
  obtain ⟨hdone, hin, hout, hwcur, hrcur, -⟩ := hok hfits
  simp only [State.bufBit_setReg, State.setReg_wcur] at hin hout
  refine ⟨t, congrArg nextState? ht, ⟨hdone.cfg, hdone.err, hrcur, hwcur, fun p hp => hout p (.inl hp)⟩,
    t.field_eq_mod fun k hk => ?_, fun p hp => hout p (.inr hp)⟩
  rw [hin k hk, hzero k hk, Bool.false_or]

/-- Packing a list of fields that fits into zeroed bits stores each value. -/
theorem packAll_of_zeroed (hcfg : s.cfg.Legal) (hfits : s.FieldsFit s.wcur.toNat fields)
    (hzero : ∀ p, s.wcur.toNat ≤ p → p < s.wcur.toNat + totalWidth fields → s.bufBit p = false) :
    ∃ t, packAll s fields = some t ∧ Packs s t (totalWidth fields) ∧ t.HoldsFields s.wcur.toNat fields := by
  induction fields generalizing s with
  | nil => exact ⟨s, rfl, Packs.refl s, trivial⟩
  | cons vw rest ih =>
    rw [totalWidth_cons] at hzero ⊢
    obtain ⟨s₁, hone, hpacks, hfield, hbeyond⟩ :=
      packOne_of_zeroed hcfg hfits.head fun k hk => hzero _ (by omega) (by omega)
    have hrest := hfits.tail.congr hpacks.cfg
    rw [← hpacks.wcur] at hrest
    obtain ⟨t, hall, hpacks', hholds⟩ := ih (hpacks.cfg ▸ hcfg) hrest fun p hlo hhi => by
      rw [hpacks.wcur] at hlo hhi
      rw [hbeyond p hlo, hzero p (by omega) (by omega)]
    have hkept : t.field s.wcur.toNat vw.2.toNat = s₁.field s.wcur.toNat vw.2.toNat :=
      State.field_congr fun p _ hp => hpacks'.below p (by rw [hpacks.wcur]; exact hp)
    refine ⟨t, by rw [packAll, hone, Option.bind_some, hall], hpacks.trans hpacks', hkept.trans hfield, ?_⟩
    rw [← hpacks.wcur]
    exact hholds

/-! ### Unpacking -/

/-- What unpacking `n` bits does besides reading them: RCUR moves by `n`, and BUF and WCUR stay. -/
structure Unpacks (s t : State) (n : Nat) : Prop where
  cfg : t.cfg = s.cfg
  err : t.err = s.err
  wcur : t.wcur = s.wcur
  rcur : t.rcur.toNat = s.rcur.toNat + n
  buf : SameBuf s t

theorem Unpacks.refl (s : State) : Unpacks s s 0 := ⟨rfl, rfl, rfl, rfl, fun _ => rfl⟩

theorem Unpacks.trans (h : Unpacks s t m) (h' : Unpacks t u n) : Unpacks s u (m + n) where
  cfg := h'.cfg.trans h.cfg
  err := h'.err.trans h.err
  wcur := h'.wcur.trans h.wcur
  rcur := by rw [h'.rcur, h.rcur, Nat.add_assoc]
  buf a := (h'.buf a).trans (h.buf a)

/-- Unpacking one field leaves its value in X3. -/
theorem unpackOne_of_fits (hcfg : s.cfg.Legal) {w : Word} (hfits : s.FieldFits s.rcur.toNat w.toNat) :
    ∃ t, nextState? (exec (.rdbits 3 2) ((s.setReg 2 w).issued (.rdbits 3 2))) = some t ∧ Unpacks s t w.toNat ∧
      (t.reg 3).toNat = s.field s.rcur.toNat w.toNat := by
  obtain ⟨t, ht, hok, -, -⟩ := BitStream.rdbitsResult (s.setReg 2 w) 3 2 hcfg
  obtain ⟨t', ht', hvalue⟩ := exec_rdbits_next (s.setReg 2 w) 3 2
  obtain rfl := Host.Outcome.next.inj (ht.symm.trans ht')
  rw [State.reg_setReg_same] at hok hvalue
  obtain ⟨hdone, -, hrcur, hwcur, -, hbuf⟩ := hok hfits
  have hfield : (s.setReg 2 w).field s.rcur.toNat w.toNat = s.field s.rcur.toNat w.toNat :=
    State.field_congr fun p _ _ => s.bufBit_setReg 2 w p
  exact ⟨t, congrArg nextState? ht, ⟨hdone.cfg, hdone.err, hwcur, hrcur, hbuf⟩, (hvalue hfits).trans hfield⟩

/-- Unpacking with the widths of the fields that stand at RCUR returns their values. -/
theorem unpackAll_of_holdsFields (hcfg : s.cfg.Legal) (hfits : s.FieldsFit s.rcur.toNat fields)
    (hholds : s.HoldsFields s.rcur.toNat fields) :
    ∃ t vs, unpackAll s (fields.map Prod.snd) = some (t, vs) ∧ Unpacks s t (totalWidth fields) ∧
      vs.map BitVec.toNat = fields.map fun vw => vw.1.toNat % 2 ^ vw.2.toNat := by
  induction fields generalizing s with
  | nil => exact ⟨s, [], rfl, Unpacks.refl s, rfl⟩
  | cons vw rest ih =>
    obtain ⟨hhead, htail⟩ := hholds
    obtain ⟨s₁, hone, hunpacks, hvalue⟩ := unpackOne_of_fits hcfg hfits.head
    have hrest := hfits.tail.congr hunpacks.cfg
    have hthere := htail.congr hunpacks.buf
    rw [← hunpacks.rcur] at hrest hthere
    obtain ⟨t, vs, hall, hunpacks', hvalues⟩ := ih (hunpacks.cfg ▸ hcfg) hrest hthere
    refine ⟨t, s₁.reg 3 :: vs, ?_, ?_, ?_⟩
    · rw [List.map_cons, unpackAll, hone, Option.bind_some, hall, Option.map_some]
    · rw [totalWidth_cons]
      exact hunpacks.trans hunpacks'
    · rw [List.map_cons, List.map_cons, hvalue, hhead, hvalues]

/-- Settles O46: packing leaves every field where unpacking then reads it. -/
theorem packingRoundTrip : Obligations.PackingRoundTrip := by
  intro s fields hcfg hcur hw hend hzero
  have hfits : s.FieldsFit s.rcur.toNat fields := ⟨hw, hend⟩
  obtain ⟨t, hpack, hpacks, hholds⟩ := packAll_of_zeroed (s := s) hcfg (by rwa [hcur]) (by rw [hcur]; exact hzero)
  rw [hcur, ← hpacks.rcur] at hholds
  rw [← hpacks.rcur] at hfits
  obtain ⟨u, vs, hunpack, hunpacks, hvalues⟩ :=
    unpackAll_of_holdsFields (hpacks.cfg ▸ hcfg) (hfits.congr hpacks.cfg) hholds
  have hrcur : u.rcur.toNat = s.rcur.toNat + totalWidth fields := by rw [hunpacks.rcur, hpacks.rcur]
  have hwcur : u.wcur = u.rcur :=
    BitVec.eq_of_toNat_eq (by rw [hunpacks.wcur, hpacks.wcur, hcur, hrcur])
  exact ⟨t, u, vs, hpack, hunpack, hvalues, hrcur, hwcur, hunpacks.err.trans hpacks.err⟩

end Sys2Proof.Machine
end

section
/-! PROOFS. Errors, busy protection and the interrupt output (60_exceptions.md): which error a command completes with
(R200 to R204, R209), the WRITE a busy block drops (R208), and `irq` (R215). -/

namespace Sys2Proof.Machine

variable {s : State}

/-! ### Busy-protected writes (R208) -/

/-- The registers on the list of R39 drop a WRITE to a busy block. -/
theorem State.writeRegister_busy {r : RegName} (hb : s.busy = true)
    (hr : r = .cmd ∨ r = .rcur ∨ r = .wcur ∨ ∃ i, r = .x i) (w : Word) :
    s.writeRegister w r = { s with ovr := true } := by
  rcases hr with rfl | rfl | rfl | ⟨i, rfl⟩
  all_goals rw [State.writeRegister, s.busyProtected_busy hb]

/-- A WRITE whose effect is OVR alone keeps `irq`, which is no function of OVR (R208, R215). -/
theorem State.hostStep_dropped {t : BusReq} (hk : t.kind = .write) (hp : t.wellPlaced = true)
    (hw : s.busWrite t = { s with ovr := true }) :
    s.hostStep t = { s with ovr := true, rsp := some .writeOk } ∧ (s.hostStep t).irq = s.irq := by
  have h : s.hostStep t = { s with ovr := true, rsp := some .writeOk } := by rw [s.hostStep_write hp hk, hw]
  exact ⟨h, by rw [h]; rfl⟩

/-- Settles O16: a busy block drops the WRITE of a register on the list and of a BUF byte alike. -/
theorem busyProtectedWritesAreDropped : Obligations.BusyProtectedWritesAreDropped := by
  intro s t hb hk hp
  refine ⟨fun r ht hr => State.hostStep_dropped hk hp ?_, fun a ht => State.hostStep_dropped hk hp ?_⟩
  · rw [s.busWrite_register ht, State.writeRegister_busy hb hr]
  · rw [s.busWrite_byte ht, s.busyProtected_busy hb]

/-! ### The errors of a command (R200 to R204, R209) -/

theorem State.checkField_eq_err {c w : Nat} {u : Update} {e : ErrCode} (h : s.checkField c w u = .err e) :
    e = .width ∨ e = .bounds := by
  unfold State.checkField at h
  split at h
  · exact .inl (ExecResult.err.inj h).symm
  · split at h
    · exact .inr (ExecResult.err.inj h).symm
    · cases h

theorem residueResult_of_zero {n : Word} (hn : n = 0#32) (rd : Reg) (v : Nat) :
    residueResult rd n v = .err .modZero :=
  if_pos hn

theorem residueResult_eq_err {rd : Reg} {n : Word} {v : Nat} {e : ErrCode} (h : residueResult rd n v = .err e) :
    e = .modZero := by
  unfold residueResult at h
  split at h <;> cases h
  rfl

theorem modinvResult_of_le_one {ops : Operands} (hf : ops.s2.toNat ≤ 1) (rd : Reg) :
    modinvResult rd ops = .err .invMod :=
  if_pos hf

theorem modinvResult_eq_err {rd : Reg} {ops : Operands} {e : ErrCode} (h : modinvResult rd ops = .err e) :
    e = .invMod := by
  unfold modinvResult at h
  split at h <;> cases h
  rfl

/-- The error of a command that fails is on its row of R209. -/
theorem execResult_eq_err {i : Instr} {ops : Operands} {e : ErrCode} (h : execResult i s ops = .err e) :
    e.value ∈ possibleErrors i := by
  cases i with
  | nop | bitlen | clz => cases h
  | modmul | modred =>
    rw [residueResult_eq_err h]
    exact List.mem_singleton_self _
  | modexp rd =>
    rw [execResult, modexpResult_eq_residueResult] at h
    rw [residueResult_eq_err h]
    exact List.mem_singleton_self _
  | modinv =>
    rw [modinvResult_eq_err h]
    exact List.mem_singleton_self _
  | rdbits | wrbits =>
    rcases State.checkField_eq_err h with rfl | rfl
    · exact List.mem_cons_self
    · exact List.mem_cons_of_mem _ List.mem_cons_self

/-- Settles O51: a commit completes without error, and an error completion records the error of the result. -/
theorem eachCommandsErrors : Obligations.EachCommandsErrors := by
  intro i s t h
  obtain ⟨f, hf, ⟨u, -, rfl⟩ | ⟨e, he, rfl⟩⟩ := exec_next s h
  · exact .inl (s.commit_completedOk u)
  · exact .inr ⟨f, hf, e.value, execResult_eq_err he, s.errorCompletion_failedWith f.cw e⟩

/-- Settles O9: the engine's turn is the error completion with ILLEGAL, and it is the step when no event is listed. -/
theorem illegalWordCompletesWithIllegal : Obligations.IllegalWordCompletesWithIllegal := by
  intro s f hf hd
  have hengine := engineStep_illegal hf hd
  exact ⟨_, hengine, s.errorCompletion_failedWith f.cw .illegal, fun hin => (step_nil s hin).trans hengine⟩

/-- A command in flight whose result fails completes with that error, which is precise (R205, R206). -/
theorem exec_error_of_inflight {f : InFlight} (hf : s.inflight = some f) {i : Instr} {e : ErrCode}
    (h : execResult i s f.ops = .err e) : ∃ t, exec i s = .next t ∧ FailedWith f.cw e.value s t := by
  refine ⟨s.errorCompletion f.cw e, ?_, s.errorCompletion_failedWith f.cw e⟩
  rw [exec_of_inflight hf, h, State.finish]

/-- Settles O47: each of the three commands writes a residue modulo the captured operand. -/
theorem zeroModulusFails : Obligations.ZeroModulusFails := by
  intro s f rd rs1 rs2 rs3 hf hn i hi
  refine exec_error_of_inflight hf (e := .modZero) ?_
  simp only [List.mem_cons, List.not_mem_nil, or_false] at hi
  rcases hi with rfl | rfl | rfl
  · exact residueResult_of_zero hn rd _
  · exact residueResult_of_zero hn rd _
  · rw [execResult, modexpResult_eq_residueResult]
    exact residueResult_of_zero hn rd _

/-- Settles O48: the captured modulus is checked before any inverse is computed (R163). -/
theorem smallInverseModulusFails : Obligations.SmallInverseModulusFails := by
  intro s f rd rs1 rs2 hf hle
  exact exec_error_of_inflight hf (i := .modinv rd rs1 rs2) (e := .invMod) (modinvResult_of_le_one hle rd)

/-- Settles O49: the width is checked before the bounds, so the cursor plays no part (R204, R210). -/
theorem wideFieldFails : Obligations.WideFieldFails := by
  intro s f rd rs1 rs2 hf
  exact ⟨fun hw => exec_error_of_inflight hf (i := .rdbits rd rs1) (e := .width) (s.checkField_width hw _),
    fun hw => exec_error_of_inflight hf (i := .wrbits rs1 rs2) (e := .width) (s.checkField_width hw _)⟩

/-! ### The interrupt output (R215) -/

theorem State.irq_eq_true_iff : s.irq = true ↔ s.ie = true ∧ (s.done = true ∨ s.err = true) := by
  rw [State.irq, Bool.and_eq_true, Bool.or_eq_true]

theorem State.irq_of_not_done_of_not_err (hd : s.done = false) (he : s.err = false) : s.irq = false := by
  rw [State.irq, hd, he, Bool.or_false, Bool.and_false]

/-- Writing 1 to STATUS bit 1 clears DONE (10_state.md R32). -/
theorem State.hostStep_status_done {w : Word} (h : w.getLsbD 1 = true) :
    (s.hostStep (hostWrite .status w)).done = false := by
  rw [s.hostStep_hostWrite, State.writeRegister, s.writeStatus_eq, h, Bool.not_true, Bool.and_false]

/-- Writing 1 to STATUS bit 2 clears ERR (10_state.md R32). -/
theorem State.hostStep_status_err {w : Word} (h : w.getLsbD 2 = true) :
    (s.hostStep (hostWrite .status w)).err = false := by
  rw [s.hostStep_hostWrite, State.writeRegister, s.writeStatus_eq, h, Bool.not_true, Bool.and_false]

/-- Settles O32: a STATUS write of both bits and each reset leave DONE and ERR 0, without which `irq` is 0. -/
theorem interruptOutput : Obligations.InterruptOutput := by
  intro s
  exact ⟨State.irq_eq_true_iff, fun w => ⟨State.hostStep_status_done, State.hostStep_status_err⟩,
    State.irq_of_not_done_of_not_err (State.hostStep_status_done (by decide)) (State.hostStep_status_err (by decide)),
    State.irq_of_not_done_of_not_err s.softReset_done s.softReset_err,
    State.irq_of_not_done_of_not_err s.hardReset_done s.hardReset_err, s.issue_done⟩

end Sys2Proof.Machine
end

section
/-! PROOFS. Soft reset (70_reset_and_hazards.md R242, R243) and the progress of a busy block (R262). -/

namespace Sys2Proof.Machine

variable {s t : State}

/-! ### Soft reset (R242, R243) -/

@[simp] theorem State.reg_softReset (s : State) (r : Reg) : s.softReset.reg r = 0#32 := by
  simp [State.reg]

/-- `HW CTRL, w` with bit 1 = 1 is a soft reset, whatever BUSY was (10_state.md R31). -/
theorem State.hostStep_ctrl_softReset {w : Word} (hw : w.getLsbD 1 = true) :
    s.hostStep (hostWrite .ctrl w) = { s.softReset with rsp := some .writeOk } := by
  rw [s.hostStep_hostWrite, State.writeRegister, s.writeCtrl_softReset hw]

/-- Settles O31: the write leaves the state of a soft reset, and only the answer is recorded besides. -/
theorem softResetValues : Obligations.SoftResetValues := by
  intro s w hw
  rw [State.hostStep_ctrl_softReset hw]
  have hbufsize := (State.answer_register_read _ .bufsize 0#32).trans (s.answer_register_read .bufsize 0#32).symm
  exact ⟨s.answer_hostWrite .ctrl w, State.answer_register_read _ .id 0#32, hbufsize, s.reg_softReset, rfl, rfl, rfl, rfl,
    rfl, rfl, rfl, rfl, rfl, rfl, rfl, s.softReset.irq_of_not_done_of_not_err s.softReset_done s.softReset_err,
    s.bufByte_softReset⟩

/-! ### Progress (R262) -/

/-- A completion of either kind sets DONE and clears BUSY (40_command_lifecycle.md R114). -/
theorem State.finish_done_idle (s : State) (cw : Word) (res : ExecResult) :
    (s.finish cw res).done = true ∧ (s.finish cw res).busy = false := by
  cases res with
  | ok u => exact ⟨s.commit_done u, s.busy_commit u⟩
  | err e => exact ⟨s.errorCompletion_done cw e, s.busy_errorCompletion cw e⟩

/-- The turn of a busy engine is the completion of the command in flight (40_command_lifecycle.md R113, R115). -/
theorem engineStep_busy (hb : s.busy = true) : ∃ t, engineStep s = .next t ∧ t.done = true ∧ t.busy = false := by
  rcases engineStep_cases s with ⟨hnone, -⟩ | ⟨f, i, -, -, he⟩ | ⟨f, -, -, -, he⟩
  · rw [s.not_busy_iff.mpr hnone] at hb
    cases hb
  · exact ⟨_, he, s.finish_done_idle f.cw _⟩
  · exact ⟨_, he, s.finish_done_idle f.cw (.err .illegal)⟩

/-- A transaction that is no soft reset leaves the command in flight, and takes no event off the list. -/
theorem State.hostStep_busy_and_inputs {b : BusReq} (hb : s.busy = true) (hn : ¬ b.softResets) :
    (s.hostStep b).busy = true ∧ (s.hostStep b).inputs = s.inputs := by
  rw [s.hostStep_busy_eq hb hn]
  exact ⟨hb, rfl⟩

theorem stepN_succ_of_step (h : step s = .next t) (n : Nat) : stepN (n + 1) s = stepN n t := by
  rw [stepN, h, nextState?, Option.bind_some]

/-- A block whose step is the turn of the engine completes in that step. -/
theorem stepN_one_completes {u : State} (h : step s = engineStep u) (hb : u.busy = true) :
    ∃ t, stepN 1 s = some t ∧ t.done = true ∧ t.busy = false := by
  obtain ⟨t, he, hend⟩ := engineStep_busy hb
  exact ⟨t, stepN_succ_of_step (h.trans he) 0, hend⟩

/-- Settles O60, by induction on the listed events: the engine's turn completes the command, a transaction leaves it in
flight with one event fewer, and the end of the list is the engine's turn. -/
theorem busyBlockCompletes : Obligations.BusyBlockCompletes := by
  intro s hb hn
  induction hin : s.inputs generalizing s with
  | nil => exact ⟨1, Nat.le_refl 1, stepN_one_completes (step_nil s hin) hb⟩
  | cons e rest ih =>
    rw [hin, List.forall_mem_cons] at hn
    obtain ⟨he, hrest⟩ := hn
    cases e with
    | hardReset => exact absurd trivial he
    | engine => exact ⟨1, Nat.le_add_left 1 _, stepN_one_completes (step_cons s hin) hb⟩
    | bus b =>
      obtain ⟨hb', hin'⟩ := State.hostStep_busy_and_inputs (s := { s with inputs := rest }) hb he
      obtain ⟨n, hle, t, ht, hend⟩ := ih _ hb' (hin' ▸ hrest) hin'
      exact ⟨n + 1, Nat.succ_le_succ hle, t, (stepN_succ_of_step (step_bus hin) n).trans ht, hend⟩

end Sys2Proof.Machine
end
